-- ==== Sys2Proof/Word.lean ====
section
/-! DEFINITION. The two word types: a buffer byte and a CSR word (10_state R22, 20_memory R78). -/
namespace Sys2Proof

/-- One byte of the bitstream; bit 7 is the most significant (00_scope R8). -/
abbrev Byte := BitVec 8

/-- One CSR word, `CSR_W = 32` (00_scope R7). -/
abbrev Word := BitVec 32

end Sys2Proof
end

