-- ==== Sys2Proof/Config.lean ====
section
/-! DEFINITION. The numbers the spec fixes (00_scope R7) and the parameters a platform fixes (`Platform`). -/
namespace Sys2Proof.Config

/-- `FRAME_MAX`, the per-frame byte ceiling. -/
abbrev frameMax : Nat := 1275

/-- `MAX_FRAMES`, the largest accepted code-3 frame count. -/
abbrev maxFrames : Nat := 48

/-- `BND_MIN_FRAME`, the per-frame lower end of the CBR plausible range. -/
abbrev bndMinFrame : Nat := 10

/-- `BND_MAX_FRAME`, the per-frame upper end of the CBR plausible range. -/
abbrev bndMaxFrame : Nat := 1275

/-- `SCAN_PROBE_MAX`, the firmware scanner's probe bound. -/
abbrev scanProbeMax : Nat := 1000

end Sys2Proof.Config

namespace Sys2Proof

/-- A run of buffer addresses `[base, base + size)`. -/
structure Region where
  base : Nat
  size : Nat
  deriving DecidableEq, Repr

/-- What the platform fixes (00_scope R7, R15; 93_implementation_defined U6, U7, U9, U14). It is constant: no step
changes it. It stands in `State` so that a statement about every state is one about every platform (log 4). -/
structure Platform where
  /-- `ADDR_W`, at most 32. -/
  addrW : Nat
  /-- `OPFD_CSR_BASE`, the bus address of the 0x200-byte CSR window. -/
  csrBase : Word
  /-- `STRONG_SEARCH`: the firmware's boundary search also decodes each candidate (43_boundary R232). -/
  strongSearch : Bool
  /-- The buffer addresses at which a read answers with a bus error (20_memory R89, U7). -/
  holes : List Region
  deriving DecidableEq, Repr

/-- The default platform: `ADDR_W = 32`, reference search, memory everywhere. DESIGN CHOICE (log 4): the window's base. -/
def Platform.default : Platform :=
  { addrW := 32, csrBase := 0xFFFFFE00#32, strongSearch := false, holes := [] }

end Sys2Proof
end

