-- ==== Sys2Proof/Syntax.lean ====
section
/-! DEFINITION. The instructions of OPFD: one constructor per row of spec/opcode_table.json (30_encoding R104), with the
row's operands; and the CSR access, the form in which the host's commands arrive (10_state R46(a)). -/
namespace Sys2Proof

/-- One instruction. `config`, `stereo`, `code` are the TOC fields (R91); `v`, `p`, `m` the FC fields (R92).
A bit the hardware ignores (a reserved CTRL bit, the START bit of an ABORT write) is no operand. -/
inductive Instr where
  /-- TOC_SPLIT (R120). -/
  | tocSplit (config : BitVec 5) (stereo : Bool) (code : BitVec 2)
  /-- CFG_LUT (R122). -/
  | cfgLut (config : BitVec 5)
  /-- PKT_C3_M0 (R167): frame count 0. -/
  | pktC3M0 (config : BitVec 5) (stereo v p : Bool)
  /-- PKT_C3_MBIG_49 (R167). -/
  | pktC3Mbig49 (config : BitVec 5) (stereo v p : Bool)
  /-- PKT_C3_MBIG_50_51 (R167). -/
  | pktC3Mbig50to51 (config : BitVec 5) (stereo v p : Bool) (m : BitVec 6)
  /-- PKT_C3_MBIG_52_55 (R167). -/
  | pktC3Mbig52to55 (config : BitVec 5) (stereo v p : Bool) (m : BitVec 6)
  /-- PKT_C3_MBIG_56_63 (R167). -/
  | pktC3Mbig56to63 (config : BitVec 5) (stereo v p : Bool) (m : BitVec 6)
  /-- PKT_C0 (R164): one frame. -/
  | pktC0 (config : BitVec 5) (stereo : Bool)
  /-- PKT_C1 (R165): two equal frames. -/
  | pktC1 (config : BitVec 5) (stereo : Bool)
  /-- PKT_C2 (R166): two frames of explicit size. -/
  | pktC2 (config : BitVec 5) (stereo : Bool)
  /-- PKT_C3_VBR (R167–R169). -/
  | pktC3Vbr (config : BitVec 5) (stereo p : Bool) (m : BitVec 6)
  /-- PKT_C3_CBR (R167, R168, R170). -/
  | pktC3Cbr (config : BitVec 5) (stereo p : Bool) (m : BitVec 6)
  /-- FL_ZERO (R140). -/
  | flZero
  /-- FL_2B (R140): size `4*b1 + b0`. -/
  | fl2b (b0 b1 : Byte)
  /-- FL_1B (R140): size `b0`. -/
  | fl1b (b0 : Byte)
  /-- PAD_CONT (R143). -/
  | padCont
  /-- PAD_TERM (R143). -/
  | padTerm (b : Byte)
  /-- CMD_START (R251); `resume` is bit 1 of the same CTRL write (R105, R254). -/
  | cmdStart (resume lenExact irqEn : Bool)
  /-- CMD_RESUME (R226), with bit 0 clear. -/
  | cmdResume (lenExact irqEn : Bool)
  /-- CMD_ABORT (R253). -/
  | cmdAbort (lenExact irqEn : Bool)
  /-- WR_CTRL_CFG (R256). -/
  | wrCtrlCfg (lenExact irqEn : Bool)
  /-- CMD_IRQ_ACK (R255). -/
  | cmdIrqAck
  /-- WR_BUF_BASE (R256), the whole written word. -/
  | wrBufBase (data : Word)
  /-- WR_BUF_LEN (R256), the whole written word. -/
  | wrBufLen (data : Word)
  /-- WR_BND_TOTAL (R256). -/
  | wrBndTotal (data : Word)
  /-- RD_CSR (R257); `offset` is bits 8:2 of the window offset. -/
  | rdCsr (offset : BitVec 7)
  deriving DecidableEq, Repr

/-- The width of a CSR access; only `word` is supported (20_memory R77). -/
inductive Width where
  | byte
  | half
  | word
  deriving DecidableEq, Repr

/-- One access at the CSR target port: an offset in the 0x200-byte window (10_state R22, R46(a)). -/
structure CsrAccess where
  write  : Bool
  offset : BitVec 9
  width  : Width
  data   : Word
  deriving DecidableEq, Repr

end Sys2Proof
end

