-- ==== Sys2Proof/WellFormed.lean ====
section
/-! DEFINITION. Which terms of `Instr` stand for an encoding: the operand ranges of spec/opcode_table.json's masks and
constraints (30_encoding R94, R96, R99). -/
namespace Sys2Proof

/-- `lo ≤ m ≤ hi` for a frame-count operand. -/
def mInRange (lo hi : Nat) (m : BitVec 6) : Bool := decide (lo ≤ m.toNat) && decide (m.toNat ≤ hi)

/-- The operand checks, one arm per constructor. -/
def Instr.wf : Instr → Bool
  | .tocSplit _ _ _ => true
  | .cfgLut _ => true
  | .pktC3M0 _ _ _ _ => true
  | .pktC3Mbig49 _ _ _ _ => true
  | .pktC3Mbig50to51 _ _ _ _ m => mInRange 50 51 m
  | .pktC3Mbig52to55 _ _ _ _ m => mInRange 52 55 m
  | .pktC3Mbig56to63 _ _ _ _ m => mInRange 56 63 m
  | .pktC0 _ _ => true
  | .pktC1 _ _ => true
  | .pktC2 _ _ => true
  | .pktC3Vbr _ _ _ m => mInRange 1 Config.maxFrames m
  | .pktC3Cbr _ _ _ m => mInRange 1 Config.maxFrames m
  | .flZero => true
  | .fl2b b0 _ => decide (252 ≤ b0.toNat)
  | .fl1b b0 => decide (1 ≤ b0.toNat) && decide (b0.toNat ≤ 251)
  | .padCont => true
  | .padTerm b => decide (b.toNat ≤ 254)
  | .cmdStart _ _ _ => true
  | .cmdResume _ _ => true
  | .cmdAbort _ _ => true
  | .wrCtrlCfg _ _ => true
  | .cmdIrqAck => true
  | .wrBufBase _ => true
  | .wrBufLen _ => true
  | .wrBndTotal _ => true
  | .rdCsr _ => true

end Sys2Proof
end

