-- ==== Sys2Proof/Decode.lean ====
section
/-! DEFINITION. Decoding (total, rejecting by name) and the encoder, from 30_encoding R90–R105; then the opcode table itself
(R104) as data, so that the decoder can be compared with it. -/
namespace Sys2Proof

/-! ## Fields -/

/-- `config = TOC[7:3]` (R91). -/
def tocConfig (b : Byte) : BitVec 5 := b.extractLsb' 3 5

/-- `s = TOC[2]` (R91). -/
def tocStereo (b : Byte) : Bool := b.getLsbD 2

/-- `c = TOC[1:0]` (R91). -/
def tocCode (b : Byte) : BitVec 2 := b.extractLsb' 0 2

/-- The TOC byte of its three fields. -/
def tocByte (config : BitVec 5) (stereo : Bool) (code : BitVec 2) : Byte :=
  config ++ BitVec.ofBool stereo ++ code

/-- `v = FC[7]` (R92). -/
def fcV (b : Byte) : Bool := b.getLsbD 7

/-- `p = FC[6]` (R92). -/
def fcP (b : Byte) : Bool := b.getLsbD 6

/-- `M = FC[5:0]` (R92). -/
def fcM (b : Byte) : BitVec 6 := b.extractLsb' 0 6

/-- The FC byte of its three fields. -/
def fcByte (v p : Bool) (m : BitVec 6) : Byte := BitVec.ofBool v ++ BitVec.ofBool p ++ m

/-! ## Where an encoding stands, and what it is made of -/

/-- The position of a syntax element. The same byte value means different rows at different positions (R90, R93), and
the engine's state fixes the position (42_packet_fsm R180). -/
inductive Site where
  /-- Offset 0, read by the TOC splitter. -/
  | toc
  /-- Offset 0, read by the configuration LUT. -/
  | lut
  /-- The TOC/FC window `W16` that selects the packet shape (R93). -/
  | shape
  /-- A frame-length code. -/
  | fl
  /-- A byte of a padding-length code. -/
  | pad
  deriving DecidableEq, Repr

/-- An encoded instruction: bytes of the bitstream at a site, in ascending offsets, or an access at the CSR port. -/
inductive Encoded where
  | element (site : Site) (bytes : List Byte)
  | csr (access : CsrAccess)
  deriving DecidableEq, Repr

/-- Why no instruction is read. -/
inductive Reject where
  /-- The bytes end inside the element at this site. -/
  | truncated (site : Site)
  /-- A CSR write to a read-only or reserved offset, or to STATUS with bit 16 clear: it has no row and no effect
  (10_state R28, R43; 20_memory R79). -/
  | ignoredWrite (offset : BitVec 9)
  /-- A CSR access that is not an aligned 32-bit one (20_memory R77). -/
  | unsupportedCsrAccess
  deriving DecidableEq, Repr

/-- What decoding answers: an instruction and the bytes after it, or a rejection. -/
inductive Decoded where
  | instr (i : Instr) (rest : List Byte)
  | reject (r : Reject)
  deriving DecidableEq, Repr

/-! ## The decoder -/

/-- The code-3 rows (R93, R99): the illegal counts first, then VBR or CBR. -/
def decodeCode3 (toc fc : Byte) : Instr :=
  if (fcM fc).toNat = 0 then .pktC3M0 (tocConfig toc) (tocStereo toc) (fcV fc) (fcP fc)
  else if (fcM fc).toNat ≤ 48 then
    if fcV fc then .pktC3Vbr (tocConfig toc) (tocStereo toc) (fcP fc) (fcM fc)
    else .pktC3Cbr (tocConfig toc) (tocStereo toc) (fcP fc) (fcM fc)
  else if (fcM fc).toNat = 49 then .pktC3Mbig49 (tocConfig toc) (tocStereo toc) (fcV fc) (fcP fc)
  else if (fcM fc).toNat ≤ 51 then .pktC3Mbig50to51 (tocConfig toc) (tocStereo toc) (fcV fc) (fcP fc) (fcM fc)
  else if (fcM fc).toNat ≤ 55 then .pktC3Mbig52to55 (tocConfig toc) (tocStereo toc) (fcV fc) (fcP fc) (fcM fc)
  else .pktC3Mbig56to63 (tocConfig toc) (tocStereo toc) (fcV fc) (fcP fc) (fcM fc)

/-- The shape a TOC/FC pair selects (R93); for codes 0–2 the FC byte is not looked at. -/
def decodeWindow (toc fc : Byte) : Instr :=
  if tocCode toc = 0#2 then .pktC0 (tocConfig toc) (tocStereo toc)
  else if tocCode toc = 1#2 then .pktC1 (tocConfig toc) (tocStereo toc)
  else if tocCode toc = 2#2 then .pktC2 (tocConfig toc) (tocStereo toc)
  else decodeCode3 toc fc

/-- `b0[7:2] = 111111`: the frame-length code has a second byte (R94, R102). -/
def flIsTwo (b0 : Byte) : Bool := decide (252 ≤ b0.toNat)

/-- The shape site: codes 0–2 take the TOC byte alone, code 3 also the FC byte. -/
def decodeShape : List Byte → Decoded
  | [] => .reject (.truncated .shape)
  | toc :: rest =>
    if tocCode toc = 3#2 then
      match rest with
      | [] => .reject (.truncated .shape)
      | fc :: rest' => .instr (decodeWindow toc fc) rest'
    else .instr (decodeWindow toc 0#8) rest

/-- A frame-length code (R94). -/
def decodeFl : List Byte → Decoded
  | [] => .reject (.truncated .fl)
  | b0 :: rest =>
    if b0 = 0#8 then .instr .flZero rest
    else if flIsTwo b0 then
      match rest with
      | [] => .reject (.truncated .fl)
      | b1 :: rest' => .instr (.fl2b b0 b1) rest'
    else .instr (.fl1b b0) rest

/-- One byte of a padding-length code (R96). -/
def decodePad : List Byte → Decoded
  | [] => .reject (.truncated .pad)
  | b :: rest => .instr (if b = 255#8 then .padCont else .padTerm b) rest

/-- A syntax element at its site. -/
def decodeElement (site : Site) (bytes : List Byte) : Decoded :=
  match site, bytes with
  | .toc, [] => .reject (.truncated .toc)
  | .toc, b :: rest => .instr (.tocSplit (tocConfig b) (tocStereo b) (tocCode b)) rest
  | .lut, [] => .reject (.truncated .lut)
  | .lut, b :: rest => .instr (.cfgLut (tocConfig b)) rest
  | .shape, bs => decodeShape bs
  | .fl, bs => decodeFl bs
  | .pad, bs => decodePad bs

/-- A write to CTRL (R105): ABORT first, then START, then RESUME, else configuration (44_host_interface R254). A write
with bits 0 and 1 both set is START with its `resume` operand set. -/
def decodeCtrl (data : Word) : Instr :=
  if data.getLsbD 2 then .cmdAbort (data.getLsbD 8) (data.getLsbD 9)
  else if data.getLsbD 0 then .cmdStart (data.getLsbD 1) (data.getLsbD 8) (data.getLsbD 9)
  else if data.getLsbD 1 then .cmdResume (data.getLsbD 8) (data.getLsbD 9)
  else .wrCtrlCfg (data.getLsbD 8) (data.getLsbD 9)

/-- An aligned 32-bit write (R105; 10_state R23). -/
def decodeCsrWrite (offset : BitVec 9) (data : Word) : Decoded :=
  if offset = 0x000#9 then .instr (decodeCtrl data) []
  else if offset = 0x004#9 then
    if data.getLsbD 16 then .instr .cmdIrqAck [] else .reject (.ignoredWrite offset)
  else if offset = 0x008#9 then .instr (.wrBufBase data) []
  else if offset = 0x00C#9 then .instr (.wrBufLen data) []
  else if offset = 0x030#9 then .instr (.wrBndTotal data) []
  else .reject (.ignoredWrite offset)

/-- Is the access an aligned 32-bit one (20_memory R77)? -/
def CsrAccess.supported (a : CsrAccess) : Bool := decide (a.width = .word) && decide (a.offset.toNat % 4 = 0)

/-- An access at the CSR port. -/
def decodeCsr (a : CsrAccess) : Decoded :=
  if a.supported then
    if a.write then decodeCsrWrite a.offset a.data
    else .instr (.rdCsr (a.offset.extractLsb' 2 7)) []
  else .reject .unsupportedCsrAccess

/-- The decoder: total on any bytes and any access. -/
def decode : Encoded → Decoded
  | .element site bytes => decodeElement site bytes
  | .csr a => decodeCsr a

/-! ## The encoder -/

/-- A CTRL word (10_state R24). -/
def ctrlWord (start resume abort lenExact irqEn : Bool) : Word :=
  BitVec.ofNat 32 (start.toNat + 2 * resume.toNat + 4 * abort.toNat + 256 * lenExact.toNat + 512 * irqEn.toNat)

/-- The two bytes of a code-3 window. -/
def code3Bytes (config : BitVec 5) (stereo v p : Bool) (m : BitVec 6) : List Byte :=
  [tocByte config stereo 3#2, fcByte v p m]

/-- An aligned 32-bit CSR write. -/
def csrWriteOf (offset : BitVec 9) (data : Word) : Encoded :=
  .csr { write := true, offset := offset, width := .word, data := data }

/-- The words of an instruction. Bits it leaves open (reserved bits, the FC byte of codes 0–2, the data of a read) are 0. -/
def encode : Instr → Encoded
  | .tocSplit config stereo code => .element .toc [tocByte config stereo code]
  | .cfgLut config => .element .lut [tocByte config false 0#2]
  | .pktC3M0 config stereo v p => .element .shape (code3Bytes config stereo v p 0#6)
  | .pktC3Mbig49 config stereo v p => .element .shape (code3Bytes config stereo v p 49#6)
  | .pktC3Mbig50to51 config stereo v p m => .element .shape (code3Bytes config stereo v p m)
  | .pktC3Mbig52to55 config stereo v p m => .element .shape (code3Bytes config stereo v p m)
  | .pktC3Mbig56to63 config stereo v p m => .element .shape (code3Bytes config stereo v p m)
  | .pktC0 config stereo => .element .shape [tocByte config stereo 0#2]
  | .pktC1 config stereo => .element .shape [tocByte config stereo 1#2]
  | .pktC2 config stereo => .element .shape [tocByte config stereo 2#2]
  | .pktC3Vbr config stereo p m => .element .shape (code3Bytes config stereo true p m)
  | .pktC3Cbr config stereo p m => .element .shape (code3Bytes config stereo false p m)
  | .flZero => .element .fl [0#8]
  | .fl2b b0 b1 => .element .fl [b0, b1]
  | .fl1b b0 => .element .fl [b0]
  | .padCont => .element .pad [255#8]
  | .padTerm b => .element .pad [b]
  | .cmdStart resume lenExact irqEn => csrWriteOf 0x000#9 (ctrlWord true resume false lenExact irqEn)
  | .cmdResume lenExact irqEn => csrWriteOf 0x000#9 (ctrlWord false true false lenExact irqEn)
  | .cmdAbort lenExact irqEn => csrWriteOf 0x000#9 (ctrlWord false false true lenExact irqEn)
  | .wrCtrlCfg lenExact irqEn => csrWriteOf 0x000#9 (ctrlWord false false false lenExact irqEn)
  | .cmdIrqAck => csrWriteOf 0x004#9 0x00010000#32
  | .wrBufBase data => csrWriteOf 0x008#9 data
  | .wrBufLen data => csrWriteOf 0x00C#9 data
  | .wrBndTotal data => csrWriteOf 0x030#9 data
  | .rdCsr offset =>
    .csr { write := false, offset := offset ++ 0#2, width := .word, data := 0#32 }

/-! ## The opcode table as data (R104) -/

/-- The table's mnemonics. -/
inductive Row where
  | TOC_SPLIT | CFG_LUT
  | PKT_C3_M0 | PKT_C3_MBIG_49 | PKT_C3_MBIG_50_51 | PKT_C3_MBIG_52_55 | PKT_C3_MBIG_56_63
  | PKT_C0 | PKT_C1 | PKT_C2 | PKT_C3_VBR | PKT_C3_CBR
  | FL_ZERO | FL_2B | FL_1B
  | PAD_CONT | PAD_TERM
  | CMD_START | CMD_RESUME | CMD_ABORT | WR_CTRL_CFG | CMD_IRQ_ACK
  | WR_BUF_BASE | WR_BUF_LEN | WR_BND_TOTAL | RD_CSR
  deriving DecidableEq, Repr

/-- The row an instruction is an instance of. -/
def Instr.row : Instr → Row
  | .tocSplit _ _ _ => .TOC_SPLIT
  | .cfgLut _ => .CFG_LUT
  | .pktC3M0 _ _ _ _ => .PKT_C3_M0
  | .pktC3Mbig49 _ _ _ _ => .PKT_C3_MBIG_49
  | .pktC3Mbig50to51 _ _ _ _ _ => .PKT_C3_MBIG_50_51
  | .pktC3Mbig52to55 _ _ _ _ _ => .PKT_C3_MBIG_52_55
  | .pktC3Mbig56to63 _ _ _ _ _ => .PKT_C3_MBIG_56_63
  | .pktC0 _ _ => .PKT_C0
  | .pktC1 _ _ => .PKT_C1
  | .pktC2 _ _ => .PKT_C2
  | .pktC3Vbr _ _ _ _ => .PKT_C3_VBR
  | .pktC3Cbr _ _ _ _ => .PKT_C3_CBR
  | .flZero => .FL_ZERO
  | .fl2b _ _ => .FL_2B
  | .fl1b _ => .FL_1B
  | .padCont => .PAD_CONT
  | .padTerm _ => .PAD_TERM
  | .cmdStart _ _ _ => .CMD_START
  | .cmdResume _ _ => .CMD_RESUME
  | .cmdAbort _ _ => .CMD_ABORT
  | .wrCtrlCfg _ _ => .WR_CTRL_CFG
  | .cmdIrqAck => .CMD_IRQ_ACK
  | .wrBufBase _ => .WR_BUF_BASE
  | .wrBufLen _ => .WR_BUF_LEN
  | .wrBndTotal _ => .WR_BND_TOTAL
  | .rdCsr _ => .RD_CSR

/-- One row's pattern: `x` is an instance when `x AND mask = pattern`; a lower priority is tried first. -/
structure Pattern where
  row      : Row
  pattern  : Nat
  mask     : Nat
  priority : Nat
  deriving DecidableEq, Repr

/-- The `W16` rows of spec/opcode_table.json, in the table's order. -/
def windowPatterns : List Pattern :=
  [ ⟨.PKT_C3_M0, 0x0300, 0x033F, 0⟩, ⟨.PKT_C3_MBIG_49, 0x0331, 0x033F, 0⟩,
    ⟨.PKT_C3_MBIG_50_51, 0x0332, 0x033E, 0⟩, ⟨.PKT_C3_MBIG_52_55, 0x0334, 0x033C, 0⟩,
    ⟨.PKT_C3_MBIG_56_63, 0x0338, 0x0338, 0⟩, ⟨.PKT_C0, 0x0000, 0x0300, 1⟩, ⟨.PKT_C1, 0x0100, 0x0300, 1⟩,
    ⟨.PKT_C2, 0x0200, 0x0300, 1⟩, ⟨.PKT_C3_VBR, 0x0380, 0x0380, 1⟩, ⟨.PKT_C3_CBR, 0x0300, 0x0380, 1⟩ ]

/-- The `FL` rows. -/
def flPatterns : List Pattern :=
  [⟨.FL_ZERO, 0x00, 0xFF, 1⟩, ⟨.FL_2B, 0xFC, 0xFC, 1⟩, ⟨.FL_1B, 0x00, 0x00, 2⟩]

/-- The `PAD` rows. -/
def padPatterns : List Pattern := [⟨.PAD_CONT, 0xFF, 0xFF, 1⟩, ⟨.PAD_TERM, 0x00, 0x00, 2⟩]

/-- The `CSR` rows at offset 0x000. -/
def ctrlPatterns : List Pattern :=
  [ ⟨.CMD_START, 0x00000001, 0x00000005, 2⟩, ⟨.CMD_RESUME, 0x00000002, 0x00000006, 2⟩,
    ⟨.CMD_ABORT, 0x00000004, 0x00000004, 1⟩, ⟨.WR_CTRL_CFG, 0x00000000, 0x00000007, 3⟩ ]

/-- Is `x` an instance of the row? -/
def Pattern.fits (p : Pattern) (x : Nat) : Bool := decide (x &&& p.mask = p.pattern)

/-- The first row, in priority and then table order, that `x` is an instance of (R104). -/
def firstRow (ps : List Pattern) (x : Nat) : Option Row :=
  [0, 1, 2, 3].findSome? fun k => ((ps.filter fun p => p.priority == k).find? fun p => p.fits x).map (·.row)

/-! ## The table's word for a row -/

/-- The instruction of a table word. The table gives a row only its width, so the width alone must stand for the site
(log 7): 16 bits are the TOC/FC window; 32 bits are a CTRL write, or the STATUS write IRQ_ACK where bit 16 is set and no
command bit is; 8 bits are the row whose mask fixes the byte (FL_ZERO, PAD_CONT, FL_2B) and otherwise the TOC byte. -/
def tableEncoded (nbits w : Nat) : Option Encoded :=
  if nbits = 8 then
    let b := BitVec.ofNat 8 w
    if b = 0#8 then some (.element .fl [b, 0#8])
    else if b = 255#8 then some (.element .pad [b, 0#8])
    else if flIsTwo b then some (.element .fl [b, 0#8])
    else some (.element .toc [b, 0#8])
  else if nbits = 16 then some (.element .shape [BitVec.ofNat 8 (w / 256), BitVec.ofNat 8 w])
  else if nbits = 32 then
    let d := BitVec.ofNat 32 w
    if d.getLsbD 16 && d.extractLsb' 0 3 == 0#3 then some (csrWriteOf 0x004#9 d)
    else some (csrWriteOf 0x000#9 d)
  else none

/-- What the decoder reads from a table word. -/
def decodeTableWord (nbits w : Nat) : Option Instr :=
  match tableEncoded nbits w with
  | none => none
  | some e =>
    match decode e with
    | .instr i _ => some i
    | .reject _ => none

end Sys2Proof
end

