-- ==== Sys2Proof/Machine/State.lean ====
section
/-! DEFINITION. The state of the machine: the CSRs (10_state R22–R45), the working registers (R51–R60), the buffer memory
(20_memory R70), the host firmware's variables (44_host_interface R259–R262), and the model's own fields `rdata`, `host` and
`platform`. INVENTORY.md lists every one with its rule. -/
namespace Sys2Proof.Machine

/-- The engine's internal states (42_packet_fsm R180). -/
inductive EngineState where
  | sIdle
  | sToc
  | sSd
  | sC2a
  | sC2b
  | sFc
  | sPad
  | sVlen
  | sVlast
  | sCbr
  | sWaitBnd
  | sCfin
  | sDone
  deriving DecidableEq, Repr

/-- The host-visible engine state, `STATUS.STATE` (10_state R29). -/
inductive Visible where
  | idle
  | busy
  | waitBnd
  | done
  deriving DecidableEq, Repr

/-- The error kinds (60_exceptions R281). -/
inductive ErrKind where
  | insufficientData
  | invalidHeader
  | invalidFrameSize
  | busError
  deriving DecidableEq, Repr

/-- Codec mode (40_toc_config R124). -/
inductive Mode where
  | silk
  | hybrid
  | celt
  deriving DecidableEq, Repr

/-- Audio bandwidth (40_toc_config R124). -/
inductive Bandwidth where
  | nb
  | mb
  | wb
  | swb
  | fb
  deriving DecidableEq, Repr

/-- Frame duration (40_toc_config R124). -/
inductive Duration where
  | ms2_5
  | ms5
  | ms10
  | ms20
  | ms40
  | ms60
  deriving DecidableEq, Repr

/-- The outputs of the TOC splitter (40_toc_config R120). -/
structure TocFields where
  config : BitVec 5
  stereo : Bool
  code   : BitVec 2
  deriving DecidableEq, Repr

/-- The outputs of the configuration LUT (40_toc_config R122). -/
structure LutRow where
  mode : Mode
  bw   : Bandwidth
  dur  : Duration
  deriving DecidableEq, Repr

/-- `HDR` by its fields (10_state R34); its 32-bit word is `Hdr.word`. -/
structure Hdr where
  toc    : Byte
  fields : TocFields
  lut    : LutRow
  fc     : Byte
  deriving DecidableEq, Repr

/-- `PKT` by its fields (10_state R35); its 32-bit word is `Pkt.word`. -/
structure Pkt where
  frameCount : BitVec 6
  selfDelim  : Bool
  isCbr      : Bool
  hasPadding : Bool
  deriving DecidableEq, Repr

/-- A register file of 48 frame sizes, `FS_W = 11` bits each (00_scope R7). -/
abbrev FrameFile := Vector (BitVec 11) 48

/-- The host-visible registers (10_state R23–R42). `STATUS.STATE` is stored once, as `w.STATE` (R29, R52). -/
structure Csr where
  lenExact      : Bool
  irqEn         : Bool
  resultValid   : Bool
  unresolved    : Bool
  err           : Option ErrKind
  irqPend       : Bool
  bufBase       : Word
  bufLen        : BitVec 24
  hdr           : Hdr
  pkt           : Pkt
  payloadOffset : BitVec 24
  paddingSize   : Word
  totalSize     : BitVec 24
  frameSize     : FrameFile
  bndMin        : Word
  bndMax        : Word
  bndSig        : BitVec 16
  bndTotal      : Word
  deriving DecidableEq, Repr

/-- The working registers `w.*` (10_state R52–R59), with the header fields of the record under construction (R60). -/
structure Work where
  /-- `w.STATE` (R52). -/
  state  : EngineState
  /-- `w.BASE`, `w.L`, `w.LX` (R53). -/
  base   : Word
  len    : BitVec 24
  lx     : Bool
  /-- `w.OFF` (R54). -/
  off    : BitVec 24
  /-- `w.TOC`, `w.FC` (R55); `w.M`, `w.V`, `w.PF` are splits of `w.FC`. -/
  toc    : Byte
  fc     : Byte
  /-- `w.PAD`, `w.NP` (R56). -/
  pad    : Word
  np     : BitVec 24
  /-- `w.S`, `w.K`, `w.SUM` (R57). -/
  sizes  : FrameFile
  k      : BitVec 6
  sum    : BitVec 17
  /-- `w.S1`, `w.N1`, `w.FLS`, `w.FLN` (R58). -/
  s1     : BitVec 11
  n1     : BitVec 2
  fls    : BitVec 11
  fln    : BitVec 2
  /-- `w.BMIN`, `w.BMAX`, `w.T` (R59). -/
  bmin   : Word
  bmax   : Word
  t      : Word
  /-- The outputs of TOC_SPLIT and CFG_LUT held for the commit (R60; 00_scope R12; 42_packet_fsm R162; log 10). -/
  fields : TocFields
  lut    : LutRow
  deriving DecidableEq, Repr

/-- The buffer space (20_memory R70(b)): address and byte pairs in canonical form (`Memory.wf`). -/
abbrev Memory := List Host.Cell

/-- A successful result, `r` of 42_packet_fsm R200: the part of the result record (00_scope R12) outside the header. -/
structure Result where
  frameCount    : Nat
  frames        : List Nat
  payloadOffset : Nat
  total         : Nat
  sd            : Bool
  isCbr         : Bool
  hasPadding    : Bool
  paddingSize   : Nat
  deriving DecidableEq, Repr

/-- The result record of 00_scope R12: the header fields and the rest. -/
structure Packet where
  hdr : Hdr
  res : Result
  deriving DecidableEq, Repr

/-- What decode_packet returns (44_host_interface R259). -/
inductive FwResult where
  /-- DecodedPacket. -/
  | packet (p : Packet)
  /-- DecodeError. -/
  | error (e : ErrKind)
  deriving DecidableEq, Repr

/-- The variables of the firmware that the host agent runs (00_scope R14). -/
structure Firmware where
  /-- The words the decode_packet in progress has read from the port, oldest first (R259). -/
  words   : List Word
  /-- What the last decode_packet returned; none before it returns (R259). -/
  result  : Option FwResult
  /-- The scanner's cursor (00_scope R5(b); R262); after scan_stream, its `next_cursor` (R260). -/
  cursor  : Nat
  /-- The packet of the last scan_stream with its offset; none is NoPacketFound (R260). -/
  found   : Option (Packet × Nat)
  /-- What the scanner has emitted, oldest first (R262). -/
  emitted : List (Packet × Nat)
  deriving DecidableEq, Repr

/-- What the world outside the block does next (44_host_interface R250–R262; 70_reset_and_hazards R320). -/
inductive HostOp where
  /-- An access at the CSR port; WR and RD of R258. -/
  | csr (access : CsrAccess)
  /-- The host stores one byte in the buffer space; BUF of R258. -/
  | store (addr : Word) (b : Byte)
  /-- A host store by bus address: to the CSR window or to memory (20_memory R70, R80). -/
  | busWrite (addr : Word) (width : Width) (data : Word)
  /-- A host load by bus address. -/
  | busRead (addr : Word) (width : Width)
  /-- The reset input (70_reset_and_hazards R310). -/
  | reset
  /-- One engine step is taken here (70_reset_and_hazards R320(b)). -/
  | engine
  /-- POLL of R258: read `offset` until `value AND mask = value'`. -/
  | poll (offset : BitVec 9) (mask value : Word)
  /-- The host waits for `irq = 1`. -/
  | waitIrq
  /-- FW_SEARCH of R258: the firmware search, its result written to BND_TOTAL (43_boundary R231). -/
  | fwSearch
  /-- decode_packet(a, n) (44_host_interface R259); the `fw` operations are its parts. -/
  | decodePacket (a : Word) (n : Nat)
  /-- The `if STATE == WAIT_BND` part. -/
  | fwAnswer
  /-- An RD whose word the firmware keeps. -/
  | fwLoad (offset : BitVec 9)
  /-- The `if STATUS.ERR != 0` part, on the word kept last but not used yet. -/
  | fwReturn
  /-- The reads of FRAME_SIZE[0 .. FRAME_COUNT-1]. -/
  | fwFrames
  /-- The return of the record built from the kept words. -/
  | fwRecord
  /-- scan_stream(a, L, cur) (R260). -/
  | scanStream (a : Word) (L cur : Nat)
  /-- `while cur < L` of the scanner loop (R262), at the firmware's cursor. -/
  | scan (a : Word) (L : Nat)
  /-- What the loop does with the returned `r`. -/
  | scanNext (a : Word) (L : Nat)
  /-- The probe at `q`, with `left` positions of the window to go. -/
  | probe (a : Word) (L q left : Nat)
  /-- What the probe does with the returned result. -/
  | probeNext (a : Word) (L q left : Nat)
  /-- SWEEP(a, L, cur) (R262): one scan_stream after another. -/
  | sweep (a : Word) (L cur : Nat)
  /-- Another scan_stream, if the last one found a packet. -/
  | sweepNext (a : Word) (L : Nat)
  deriving DecidableEq, Repr

/-- The whole machine. `rdata` is the word the CSR port last returned, `host` the operations still to come in their
order of arrival (20_memory R82, R85), `fw` the firmware's variables, `platform` the constant parameters (00_scope R7, R15). -/
structure State where
  csr      : Csr
  w        : Work
  mem      : Memory
  rdata    : Word
  host     : List HostOp
  fw       : Firmware
  platform : Platform
  deriving DecidableEq, Repr

/-- Why the machine stops. Both are the spec's model-only faults (60_exceptions R301); stopping is safe: the hardware
goes on, and nothing is claimed past the stop. -/
inductive Fault where
  /-- BUFFER_RACE, raised by a host store into `[w.BASE, w.BASE + w.L)` while BUSY (20_memory R83). Safe. -/
  | bufferRace
  /-- UNSUPPORTED_CSR_ACCESS, raised by a CSR access that is not an aligned 32-bit one (20_memory R77). Safe. -/
  | unsupportedCsrAccess
  deriving DecidableEq, Repr

/-- Why the model has no answer. -/
inductive Refusal where
  /-- An instruction without a meaning, raised only by an arm of `exec`. Safe. -/
  | notModelled (mnemonic : String)
  deriving DecidableEq, Repr

/-- Every outcome of a step. -/
abbrev Out := Host.Outcome State Fault Refusal

/-! ## Reset -/

/-- A TOC split of zeros. -/
def TocFields.zero : TocFields := { config := 0#5, stereo := false, code := 0#2 }

/-- The LUT outputs whose codes are all 0 (40_toc_config R124). -/
def LutRow.zero : LutRow := { mode := .silk, bw := .nb, dur := .ms2_5 }

/-- `HDR = 0`. -/
def Hdr.zero : Hdr := { toc := 0#8, fields := .zero, lut := .zero, fc := 0#8 }

/-- `PKT = 0`. -/
def Pkt.zero : Pkt := { frameCount := 0#6, selfDelim := false, isCbr := false, hasPadding := false }

/-- Every CSR is 0 (10_state R23, R61). -/
def Csr.reset : Csr :=
  { lenExact := false, irqEn := false, resultValid := false, unresolved := false, err := none, irqPend := false
    bufBase := 0#32, bufLen := 0#24, hdr := .zero, pkt := .zero, payloadOffset := 0#24, paddingSize := 0#32
    totalSize := 0#24, frameSize := Vector.replicate 48 0#11
    bndMin := 0#32, bndMax := 0#32, bndSig := 0#16, bndTotal := 0#32 }

/-- `w.STATE = S_IDLE` (10_state R61). DESIGN CHOICE (log 1): the other working registers, which the spec leaves
unspecified, are 0. -/
def Work.reset : Work :=
  { state := .sIdle, base := 0#32, len := 0#24, lx := false, off := 0#24, toc := 0#8, fc := 0#8, pad := 0#32
    np := 0#24, sizes := Vector.replicate 48 0#11, k := 0#6, sum := 0#17, s1 := 0#11, n1 := 0#2, fls := 0#11
    fln := 0#2, bmin := 0#32, bmax := 0#32, t := 0#32, fields := .zero, lut := .zero }

/-- The firmware before it has run. DESIGN CHOICE (log 22): nothing read, nothing found, cursor 0. -/
def Firmware.start : Firmware := { words := [], result := none, cursor := 0, found := none, emitted := [] }

/-- The machine right after reset, with memory nothing has written and no host operation to come. -/
def State.reset : State :=
  { csr := .reset, w := .reset, mem := [], rdata := 0#32, host := [], fw := .start, platform := .default }

end Sys2Proof.Machine
end

