-- ==== Sys2Proof/Machine/Operands.lean ====
section
/-! DEFINITION. The operand forms: the TOC split and the configuration LUT (40_toc_config R120–R125), the frame-length and
padding-length codes and their canonical encoders (41_vlc R140–R147), the frame-count mux (42_packet_fsm R163). -/
namespace Sys2Proof.Machine

/-! ## TOC byte -/

/-- TOC_SPLIT (R120). -/
def tocSplit (toc : Byte) : TocFields := { config := tocConfig toc, stereo := tocStereo toc, code := tocCode toc }

/-- The configuration table (R123). UNVERIFIED (log 17): the spec supplies every row but config 0 from general knowledge. -/
def opusConfigTable : List LutRow :=
  [ ⟨.silk, .nb, .ms10⟩, ⟨.silk, .nb, .ms20⟩, ⟨.silk, .nb, .ms40⟩, ⟨.silk, .nb, .ms60⟩,
    ⟨.silk, .mb, .ms10⟩, ⟨.silk, .mb, .ms20⟩, ⟨.silk, .mb, .ms40⟩, ⟨.silk, .mb, .ms60⟩,
    ⟨.silk, .wb, .ms10⟩, ⟨.silk, .wb, .ms20⟩, ⟨.silk, .wb, .ms40⟩, ⟨.silk, .wb, .ms60⟩,
    ⟨.hybrid, .swb, .ms10⟩, ⟨.hybrid, .swb, .ms20⟩, ⟨.hybrid, .fb, .ms10⟩, ⟨.hybrid, .fb, .ms20⟩,
    ⟨.celt, .nb, .ms2_5⟩, ⟨.celt, .nb, .ms5⟩, ⟨.celt, .nb, .ms10⟩, ⟨.celt, .nb, .ms20⟩,
    ⟨.celt, .wb, .ms2_5⟩, ⟨.celt, .wb, .ms5⟩, ⟨.celt, .wb, .ms10⟩, ⟨.celt, .wb, .ms20⟩,
    ⟨.celt, .swb, .ms2_5⟩, ⟨.celt, .swb, .ms5⟩, ⟨.celt, .swb, .ms10⟩, ⟨.celt, .swb, .ms20⟩,
    ⟨.celt, .fb, .ms2_5⟩, ⟨.celt, .fb, .ms5⟩, ⟨.celt, .fb, .ms10⟩, ⟨.celt, .fb, .ms20⟩ ]

/-- CFG_LUT (R122): the table indexed by `config`. Every index is in range (R125). -/
def cfgLut (config : BitVec 5) : LutRow := opusConfigTable.getD config.toNat .zero

/-- The numbers of R124. -/
def Mode.code : Mode → Nat
  | .silk => 0
  | .hybrid => 1
  | .celt => 2

/-- The numbers of R124. -/
def Bandwidth.code : Bandwidth → Nat
  | .nb => 0
  | .mb => 1
  | .wb => 2
  | .swb => 3
  | .fb => 4

/-- The numbers of R124. -/
def Duration.code : Duration → Nat
  | .ms2_5 => 0
  | .ms5 => 1
  | .ms10 => 2
  | .ms20 => 3
  | .ms40 => 4
  | .ms60 => 5

/-- The mode of a number of R124; 3 is never produced. -/
def Mode.ofCode : Nat → Mode
  | 0 => .silk
  | 1 => .hybrid
  | _ => .celt

/-- The bandwidth of a number of R124; 5–7 are never produced. -/
def Bandwidth.ofCode : Nat → Bandwidth
  | 0 => .nb
  | 1 => .mb
  | 2 => .wb
  | 3 => .swb
  | _ => .fb

/-- The duration of a number of R124; 6 and 7 are never produced. -/
def Duration.ofCode : Nat → Duration
  | 0 => .ms2_5
  | 1 => .ms5
  | 2 => .ms10
  | 3 => .ms20
  | 4 => .ms40
  | _ => .ms60

/-- The frame-count mux (R163): the number of frames a packet of this code has. -/
def muxFrameCount (code : BitVec 2) (fc : Byte) : Nat :=
  if code = 0#2 then 1 else if code = 3#2 then (fcM fc).toNat else 2

/-! ## Frame-length code -/

/-- What FLDEC answers (R140); a buffer read may also end in a bus error (20_memory R89). -/
inductive FlVerdict where
  | ok (size n : Nat)
  | insufficient
  | busError
  deriving DecidableEq, Repr

/-- The bytes of the FL code at offset `i` of a buffer of `L` bytes, read as FLDEC reads them: the second byte only when
the first asks for it and it lies in the buffer (R140, R141; 20_memory R73). `none` is a bus error. -/
def flBytes (L : Nat) (B : Nat → Option Byte) (i : Nat) : Option (List Byte) :=
  if L ≤ i then some []
  else
    match B i with
    | none => none
    | some b0 =>
      if flIsTwo b0 && decide (i + 1 < L) then
        match B (i + 1) with
        | none => none
        | some b1 => some [b0, b1]
      else some [b0]

/-- FLDEC(i) (R140). -/
def fldec (L : Nat) (B : Nat → Option Byte) (i : Nat) : FlVerdict :=
  if L ≤ i then .insufficient
  else
    match B i with
    | none => .busError
    | some b0 =>
      if flIsTwo b0 then
        if L ≤ i + 1 then .insufficient
        else
          match B (i + 1) with
          | none => .busError
          | some b1 => .ok (4 * b1.toNat + b0.toNat) 2
      else .ok b0.toNat 1

/-- The outputs of the FL decoder as a combinational sub-block (R141; 10_state R48). -/
structure FlPorts where
  size         : BitVec 11
  nbytes       : BitVec 2
  insufficient : Bool
  deriving DecidableEq, Repr

/-- The FL decoder as a combinational sub-block (R141). -/
def flDecoder (b0 : Byte) (haveB0 : Bool) (b1 : Byte) (haveB1 : Bool) : FlPorts :=
  let two := b0.getLsbD 7 && b0.getLsbD 6 && b0.getLsbD 5 && b0.getLsbD 4 && b0.getLsbD 3 && b0.getLsbD 2
  { size := if two then (b1.setWidth 11 <<< 2) + b0.setWidth 11 else b0.setWidth 11
    nbytes := if two then 2#2 else 1#2
    insufficient := !haveB0 || (two && !haveB1) }

/-- FLENC(s) (R146): the encoder of the source's round-trip property; the block does not implement it. -/
def flenc (s : Nat) : List Byte :=
  if s ≤ 251 then [BitVec.ofNat 8 s]
  else [BitVec.ofNat 8 (252 + s % 4), BitVec.ofNat 8 ((s - (252 + s % 4)) / 4)]

/-! ## Padding-length code -/

/-- What PADDEC answers (R143). -/
inductive PadVerdict where
  | ok (total n : Nat)
  | insufficient
  | busError
  deriving DecidableEq, Repr

/-- The loop of PADDEC(i) (R143) with `fuel` bytes left before the end of the buffer. -/
def paddecFrom (B : Nat → Option Byte) (i : Nat) : (fuel total n : Nat) → PadVerdict
  | 0, _, _ => .insufficient
  | fuel + 1, total, n =>
    match B (i + n) with
    | none => .busError
    | some b =>
      if b = 255#8 then paddecFrom B i fuel (total + 254) (n + 1)
      else .ok (total + b.toNat) (n + 1)

/-- PADDEC(i) (R143): at most `L - i` reads. -/
def paddec (L : Nat) (B : Nat → Option Byte) (i : Nat) : PadVerdict := paddecFrom B i (L - i) 0 0

/-- The outputs of one step of the PAD decoder (R144; 10_state R48). -/
structure PadPorts where
  acc          : Word
  done         : Bool
  insufficient : Bool
  deriving DecidableEq, Repr

/-- The PAD decoder as a one-byte-per-step sub-block (R144). -/
def padDecoderStep (b : Byte) (haveB : Bool) (acc : Word) : PadPorts :=
  { acc := acc + (if b = 0xFF#8 then 254#32 else b.setWidth 32)
    done := haveB && !decide (b = 0xFF#8)
    insufficient := !haveB }

/-- PADENC(P) (R147): the canonical encoder; the block does not implement it. -/
def padenc (p : Nat) : List Byte :=
  if p % 254 = 0 ∧ 0 < p / 254 then List.replicate (p / 254 - 1) 255#8 ++ [254#8]
  else List.replicate (p / 254) 255#8 ++ [BitVec.ofNat 8 (p % 254)]

/-- A list of bytes as a buffer in which every read succeeds. -/
def listBuffer (bytes : List Byte) (i : Nat) : Option Byte := some (bytes.getD i 0#8)

end Sys2Proof.Machine
end

