-- ==== Sys2Proof/Machine/Flags.lean ====
section
/-! DEFINITION. The flags and the words they stand in: `STATUS`, `CTRL`, `HDR`, `PKT` (10_state R24–R35, R44), the visible
engine state (R29), the `irq` output (R50), and the address map of CSR reads (R23, R43). -/
namespace Sys2Proof.Machine

/-- `w.STATE` as the host sees it (R29; 42_packet_fsm R180). -/
def EngineState.visible : EngineState → Visible
  | .sIdle => .idle
  | .sToc => .busy
  | .sSd => .busy
  | .sC2a => .busy
  | .sC2b => .busy
  | .sFc => .busy
  | .sPad => .busy
  | .sVlen => .busy
  | .sVlast => .busy
  | .sCbr => .busy
  | .sWaitBnd => .waitBnd
  | .sCfin => .busy
  | .sDone => .done

/-- `STATUS.STATE` (R29). -/
def Visible.code : Visible → Nat
  | .idle => 0
  | .busy => 1
  | .waitBnd => 2
  | .done => 3

/-- `STATUS.ERR` of a kind (R30; 60_exceptions R281). -/
def ErrKind.code : ErrKind → Nat
  | .insufficientData => 1
  | .invalidHeader => 2
  | .invalidFrameSize => 3
  | .busError => 4

/-- `STATUS.ERR`, 0 for NONE (R30). -/
def errCode : Option ErrKind → Nat
  | none => 0
  | some e => e.code

/-- The engine state the host sees. -/
def State.visible (s : State) : Visible := s.w.state.visible

/-- The engine is in a BUSY state. -/
def State.busy (s : State) : Bool := s.visible == .busy

/-- `irq = STATUS.IRQ_PEND AND CTRL.IRQ_EN` (R45, R50; 60_exceptions R291). -/
def State.irq (s : State) : Bool := s.csr.irqPend && s.csr.irqEn

/-- `CTRL` as it reads (R24, R25). -/
def State.ctrlRead (s : State) : Word :=
  BitVec.ofNat 32 (256 * s.csr.lenExact.toNat + 512 * s.csr.irqEn.toNat)

/-- `STATUS` as it reads (R28). -/
def State.statusRead (s : State) : Word :=
  BitVec.ofNat 32 (s.visible.code + 16 * s.csr.resultValid.toNat + 32 * s.csr.unresolved.toNat
    + 256 * errCode s.csr.err + 65536 * s.csr.irqPend.toNat)

/-- `HDR` as it reads (R34; 42_packet_fsm R200). -/
def Hdr.word (h : Hdr) : Word :=
  h.toc.setWidth 32 ||| h.fields.config.setWidth 32 <<< 8 ||| (BitVec.ofBool h.fields.stereo).setWidth 32 <<< 13
    ||| h.fields.code.setWidth 32 <<< 14 ||| BitVec.ofNat 32 h.lut.mode.code <<< 16
    ||| BitVec.ofNat 32 h.lut.bw.code <<< 18 ||| BitVec.ofNat 32 h.lut.dur.code <<< 21 ||| h.fc.setWidth 32 <<< 24

/-- `PKT` as it reads (R35; 42_packet_fsm R200). -/
def Pkt.word (p : Pkt) : Word :=
  p.frameCount.setWidth 32 ||| (BitVec.ofBool p.selfDelim).setWidth 32 <<< 8
    ||| (BitVec.ofBool p.isCbr).setWidth 32 <<< 9 ||| (BitVec.ofBool p.hasPadding).setWidth 32 <<< 10

/-- A word of `STATUS` read back: its ERR field as an error kind (R30; 5–7 are never produced). -/
def statusErr (w : Word) : Option ErrKind :=
  match (w.extractLsb' 8 3).toNat with
  | 0 => none
  | 1 => some .insufficientData
  | 2 => some .invalidHeader
  | 3 => some .invalidFrameSize
  | _ => some .busError

/-- A word of `HDR` read back (R34; 44_host_interface R259), the codes through 40_toc_config R124, whose other values are never
produced. -/
def Hdr.ofWord (w : Word) : Hdr :=
  { toc := w.extractLsb' 0 8
    fields := { config := w.extractLsb' 8 5, stereo := w.getLsbD 13, code := w.extractLsb' 14 2 }
    lut := { mode := .ofCode (w.extractLsb' 16 2).toNat, bw := .ofCode (w.extractLsb' 18 3).toNat
             dur := .ofCode (w.extractLsb' 21 3).toNat }
    fc := w.extractLsb' 24 8 }

/-- A word of `PKT` read back (R35). -/
def Pkt.ofWord (w : Word) : Pkt :=
  { frameCount := w.extractLsb' 0 6, selfDelim := w.getLsbD 8, isCbr := w.getLsbD 9, hasPadding := w.getLsbD 10 }

/-- `FRAME_SIZE[k]`, 0 past the file. -/
def FrameFile.at (f : FrameFile) (k : Nat) : BitVec 11 := (f[k]?).getD 0#11

/-- A CSR read (R23, R43; 44_host_interface R257): the current value at a word offset; reserved offsets read 0. -/
def State.csrRead (s : State) (offset : Nat) : Word :=
  if offset = 0x000 then s.ctrlRead
  else if offset = 0x004 then s.statusRead
  else if offset = 0x008 then s.csr.bufBase
  else if offset = 0x00C then s.csr.bufLen.setWidth 32
  else if offset = 0x010 then s.csr.hdr.word
  else if offset = 0x014 then s.csr.pkt.word
  else if offset = 0x018 then s.csr.payloadOffset.setWidth 32
  else if offset = 0x01C then s.csr.paddingSize
  else if offset = 0x020 then s.csr.totalSize.setWidth 32
  else if offset = 0x024 then s.csr.bndMin
  else if offset = 0x028 then s.csr.bndMax
  else if offset = 0x02C then s.csr.bndSig.setWidth 32
  else if offset = 0x030 then s.csr.bndTotal
  else if 0x100 ≤ offset ∧ offset < 0x1C0 then (FrameFile.at s.csr.frameSize ((offset - 0x100) / 4)).setWidth 32
  else 0#32

end Sys2Proof.Machine
end

