-- ==== Sys2Proof/Machine/Ops.lean ====
section
/-! DEFINITION. The operations every meaning shares: the buffer memory (20_memory R70, R71, R89), the error completion
(60_exceptions R288), the commit (42_packet_fsm R200), and the writes of CTRL and of the working registers. -/
namespace Sys2Proof.Machine

/-! ## Memory -/

/-- What a byte nothing has written reads as. DESIGN CHOICE (log 2): the spec gives no power-on contents. -/
def Memory.unlisted : Byte := 0#8

/-- One byte of the buffer space. -/
def Memory.read : Memory → Nat → Byte
  | [], _ => Memory.unlisted
  | (x, y) :: m, a => if x = a then y else Memory.read m a

/-- Write one byte, keeping the canonical form: addresses rise, and an unlisted value is not listed. -/
def Memory.write : Memory → Nat → Byte → Memory
  | [], a, b => if b = Memory.unlisted then [] else [(a, b)]
  | (x, y) :: m, a, b =>
    if a < x then (if b = Memory.unlisted then (x, y) :: m else (a, b) :: (x, y) :: m)
    else if a = x then (if b = Memory.unlisted then m else (a, b) :: m)
    else (x, y) :: Memory.write m a b

/-- The canonical form from address `lo` on. -/
def Memory.wfFrom : Nat → Memory → Bool
  | _, [] => true
  | lo, (a, b) :: m => decide (lo ≤ a) && decide (a < 2 ^ 32) && decide (b ≠ Memory.unlisted) && Memory.wfFrom (a + 1) m

/-- The canonical form: addresses strictly rising below 2^32, no entry equal to what an unlisted address reads as. -/
def Memory.wf (m : Memory) : Bool := Memory.wfFrom 0 m

/-- Does a read at the address answer with a bus error (20_memory R89, U7)? -/
def isHole (p : Platform) (a : Nat) : Bool := p.holes.any fun r => decide (r.base ≤ a) && decide (a < r.base + r.size)

/-- `MemRead(a, 1)` (00_scope R10): a byte, or `none` for a bus error. -/
def busRead (p : Platform) (m : Memory) (a : Nat) : Option Byte := if isHole p a then none else some (Memory.read m a)

/-- The bus address of buffer byte `i`: `(base + i) mod 2^ADDR_W` (20_memory R71). -/
def bufAddr (p : Platform) (base : Word) (i : Nat) : Nat := (base.toNat + i) % 2 ^ p.addrW

/-- `B(i)` (20_memory R71). Every rule that names it has checked `i < w.L` (R73). -/
def State.B (s : State) (i : Nat) : Option Byte := busRead s.platform s.mem (bufAddr s.platform s.w.base i)

/-- A host store of one byte (20_memory R70(b)). DESIGN CHOICE (log 11): where no memory answers it has no effect. -/
def hostStore (a : Word) (b : Byte) (s : State) : State :=
  if isHole s.platform a.toNat then s else { s with mem := Memory.write s.mem a.toNat b }

/-- Is the address one of the running decode's buffer bytes, `[w.BASE, w.BASE + w.L)` with the wrap of R71 (R83)? -/
def State.inBuffer (s : State) (a : Word) : Bool :=
  decide (a.toNat < 2 ^ s.platform.addrW) &&
    decide ((a.toNat + 2 ^ s.platform.addrW - s.w.base.toNat % 2 ^ s.platform.addrW) % 2 ^ s.platform.addrW < s.w.len.toNat)

/-! ## Working registers -/

/-- `w.L` as a number. -/
def State.len (s : State) : Nat := s.w.len.toNat

/-- `w.M = w.FC[5:0]` (10_state R55). -/
def State.m (s : State) : Nat := (fcM s.w.fc).toNat

/-- `w.V = w.FC[7]` (10_state R55). -/
def State.v (s : State) : Bool := fcV s.w.fc

/-- `w.PF = w.FC[6]` (10_state R55). -/
def State.pf (s : State) : Bool := fcP s.w.fc

/-- `w.STATE <- st`. -/
def State.goto (s : State) (st : EngineState) : State := { s with w := { s.w with state := st } }

/-- The caller's store of an FL result in `w.FLS`, `w.FLN` (41_vlc R140; 10_state R58). -/
def State.latchFl (s : State) (size n : Nat) : State :=
  { s with w := { s.w with fls := BitVec.ofNat 11 size, fln := BitVec.ofNat 2 n } }

/-- The FL decoder's outputs reach `w.FLS`, `w.FLN` when they carry a meaning (41_vlc R141). -/
def State.latchVerdict (s : State) : FlVerdict → State
  | .ok size n => s.latchFl size n
  | .insufficient => s
  | .busError => s

/-- The update of `LEN_EXACT` and `IRQ_EN` that every CTRL write makes (10_state R25; 44_host_interface R250). -/
def State.writeCtrl (s : State) (lenExact irqEn : Bool) : State :=
  { s with csr := { s.csr with lenExact := lenExact, irqEn := irqEn } }

/-! ## Ending a decode -/

/-- `error(E)` (60_exceptions R288): the one way a decode error is taken. The result registers, `RESULT_VALID`,
`UNRESOLVED` and the `BND_*` registers stay. Nothing is saved and nothing returns: the next START leaves DONE (R289). -/
def raiseError (e : ErrKind) (s : State) : State :=
  { s with
    csr := { s.csr with err := some e, irqPend := true }
    w := { s.w with state := .sDone } }

/-- `FRAME_SIZE[k] <- (k < frame_count ? frames[k] : 0)` for all 48 entries (R200). -/
def frameFileOf (r : Result) : FrameFile :=
  Vector.ofFn fun k => if k.val < r.frameCount then BitVec.ofNat 11 (r.frames.getD k.val 0) else 0#11

/-- `HDR` of the decode in progress (R200): the TOC byte, the outputs of the TOC splitter and the LUT, and the FC byte of a
code-3 packet. -/
def Work.hdr (w : Work) : Hdr :=
  { toc := w.toc, fields := w.fields, lut := w.lut, fc := if w.fields.code = 3#2 then w.fc else 0#8 }

/-- `PKT` of a result (R200). -/
def Result.pkt (r : Result) : Pkt :=
  { frameCount := BitVec.ofNat 6 r.frameCount, selfDelim := r.sd, isCbr := r.isCbr, hasPadding := r.hasPadding }

/-- `commit(r)` (R200): every result register and the completion flags in one step. -/
def commit (r : Result) (s : State) : State :=
  { s with
    csr := { s.csr with
      hdr := s.w.hdr
      pkt := r.pkt
      payloadOffset := BitVec.ofNat 24 r.payloadOffset
      paddingSize := BitVec.ofNat 32 r.paddingSize
      totalSize := BitVec.ofNat 24 r.total
      frameSize := frameFileOf r
      resultValid := true
      unresolved := decide (r.total = 0)
      err := none
      irqPend := true }
    w := { s.w with state := .sDone } }

/-- A decode ends: with a result, or with an error (00_scope R11). -/
def finish (x : Except ErrKind Result) (s : State) : State :=
  match x with
  | .error e => raiseError e s
  | .ok r => commit r s

end Sys2Proof.Machine
end

