-- ==== Sys2Proof/Machine/Boundary.lean ====
section
/-! DEFINITION. The CBR split and the boundary check (42_packet_fsm R170, R171; 43_boundary R220–R229). -/
namespace Sys2Proof.Machine

/-- CBR_FINISH(T) (42_packet_fsm R171): split a packet of `T` bytes, in a buffer of `L`, into `m` equal frames. -/
def cbrSplit (L T off pad m : Nat) (pf : Bool) : Except ErrKind Result :=
  if L < T then .error .insufficientData
  else if T < off + pad then .error .invalidFrameSize
  else if (T - off - pad) % m ≠ 0 then .error .invalidFrameSize
  else if Config.frameMax < (T - off - pad) / m then .error .invalidFrameSize
  else .ok
    { frameCount := m, frames := List.replicate m ((T - off - pad) / m), payloadOffset := off, total := T, sd := false
      isCbr := true, hasPadding := pf, paddingSize := pad }

/-- The unresolved record (43_boundary R228). -/
def unresolvedResult (off pad m : Nat) (pf : Bool) : Result :=
  { frameCount := m, frames := List.replicate m 0, payloadOffset := off, total := 0, sd := false
    isCbr := true, hasPadding := pf, paddingSize := pad }

/-- `BND_MIN` (43_boundary R221). -/
def rangeMin (off pad m : Nat) : Nat := off + Config.bndMinFrame * m + pad

/-- `BND_MAX` (43_boundary R221). -/
def rangeMax (off pad m : Nat) : Nat := off + Config.bndMaxFrame * m + pad

/-- `w.OFF` as a number. -/
def State.off (s : State) : Nat := s.w.off.toNat

/-- `w.PAD` as a number. -/
def State.pad (s : State) : Nat := s.w.pad.toNat

/-- `S_CFIN`: CBR_FINISH(w.T) (42_packet_fsm R171, R181). -/
def cbrFinish (s : State) : State :=
  finish (cbrSplit s.len s.w.t.toNat s.off s.pad s.m s.pf) s

/-- Commit the unresolved record (43_boundary R225, R226, R228). -/
def commitUnresolved (s : State) : State := commit (unresolvedResult s.off s.pad s.m s.pf) s

/-- The range of R221, in the working registers and in `BND_MIN`, `BND_MAX`, `BND_SIG`. -/
def publishRange (s : State) : State :=
  let lo := BitVec.ofNat 32 (rangeMin s.off s.pad s.m)
  let hi := BitVec.ofNat 32 (rangeMax s.off s.pad s.m)
  { s with
    csr := { s.csr with bndMin := lo, bndMax := hi, bndSig := s.w.fc ++ s.w.toc }
    w := { s.w with bmin := lo, bmax := hi } }

/-- `w.T <- T`, then `S_CFIN` (42_packet_fsm R181). -/
def toSplit (T : Word) (s : State) : State := { s with w := { s.w with t := T, state := .sCfin } }

/-- Entry to WAIT_BND (43_boundary R224). -/
def needBoundary (s : State) : State :=
  { s with csr := { s.csr with irqPend := true }, w := { s.w with state := .sWaitBnd } }

/-- The verdict on the buffer length (43_boundary R223–R225). In range `w.T <- w.L` and CBR_FINISH(w.L) run in this same
step, so that the range registers, which R221 makes visible with the verdict, change in no step that stays BUSY
(42_packet_fsm R182, which lets steps of BUSY be taken together; log 8). -/
def boundaryVerdict (s : State) : State :=
  if s.len < s.w.bmin.toNat then commitUnresolved s
  else if s.w.bmax.toNat < s.len then needBoundary s
  else cbrFinish (toSplit (s.w.len.setWidth 32) s)

/-- `S_CBR` (42_packet_fsm R170, R181): with `w.LX` the length is the packet's, else the range decides (43_boundary R222). -/
def cbrDispatch (s : State) : State :=
  if s.w.lx then toSplit (s.w.len.setWidth 32) s else boundaryVerdict (publishRange s)

/-- RESUME in WAIT_BND (43_boundary R226): `BND_TOTAL` is read once; 0 commits the unresolved record at once (R181). -/
def resume (s : State) : State :=
  let t := { s with w := { s.w with t := s.csr.bndTotal } }
  if s.csr.bndTotal = 0#32 then commitUnresolved t else t.goto .sCfin

end Sys2Proof.Machine
end

