-- ==== Sys2Proof/Machine/Vlc.lean ====
section
/-! DEFINITION. The rows of the frame-length and padding-length codes (41_vlc R140–R144) with what the state machine does
with them in `S_VLEN` and `S_PAD` (42_packet_fsm R168, R169, R181). -/
namespace Sys2Proof.Machine

/-- The body of the VBR loop (R169): the size goes to `w.S[w.K]` and into `w.SUM`, the cursor moves past the code, and
the loop goes on while `w.K < M - 2` (R181). -/
def vlenStore (size n : Nat) (s : State) : State :=
  let w := { s.w with
    sizes := s.w.sizes.setIfInBounds s.w.k.toNat (BitVec.ofNat 11 size)
    sum := BitVec.ofNat 17 (s.w.sum.toNat + size)
    off := BitVec.ofNat 24 (s.w.off.toNat + n) }
  if s.w.k.toNat + 2 < s.m then { s with w := { w with k := BitVec.ofNat 6 (s.w.k.toNat + 1) } }
  else { s with w := { w with state := .sVlast } }

/-- An FL code of value `size` in `n` bytes has been decoded: the caller stores both in `w.FLS`, `w.FLN` (R140), and in
`S_VLEN` it goes on with the loop of R169. -/
def flReturn (size n : Nat) (s : State) : State :=
  if s.w.state = .sVlen then vlenStore size n (s.latchFl size n) else s.latchFl size n

/-- FL_ZERO (R140): size 0 in one byte. -/
def execFlZero (s : State) : Out := .next (flReturn 0 1 s)

/-- FL_1B (R140): size `b0` in one byte. -/
def execFl1b (b0 : Byte) (s : State) : Out := .next (flReturn b0.toNat 1 s)

/-- FL_2B (R140): size `4*b1 + b0` in two bytes. -/
def execFl2b (b0 b1 : Byte) (s : State) : Out := .next (flReturn (4 * b1.toNat + b0.toNat) 2 s)

/-- After the padding code, or without one (R167, R168, R181): the sizes of a VBR packet, or the CBR dispatch. -/
def afterPadding (s : State) : State :=
  if s.v then { s with w := { s.w with sum := 0#17, k := 0#6, state := if 2 ≤ s.m then .sVlen else .sVlast } }
  else s.goto .sCbr

/-- One PAD byte contributes `x` and is counted (R143, R144). -/
def padAccumulate (x : Nat) (s : State) : State :=
  { s with w := { s.w with pad := BitVec.ofNat 32 (s.w.pad.toNat + x), np := BitVec.ofNat 24 (s.w.np.toNat + 1) } }

/-- PAD_CONT (R143): contributes 254, and the run continues at the next byte (10_state R21). -/
def execPadCont (s : State) : Out :=
  let t := padAccumulate 254 s
  .next { t with w := { t.w with off := BitVec.ofNat 24 (s.w.off.toNat + 1) } }

/-- PAD_TERM (R143, R168): contributes its own value and ends the run; `w.OFF <- 2 + w.NP`. -/
def execPadTerm (b : Byte) (s : State) : Out :=
  let t := padAccumulate b.toNat s
  .next (afterPadding { t with w := { t.w with off := BitVec.ofNat 24 (2 + t.w.np.toNat) } })

end Sys2Proof.Machine
end

