-- ==== Sys2Proof/Machine/Packet.lean ====
section
/-! DEFINITION. The packet shapes (42_packet_fsm R164–R176): first each rule's decision as a function of the buffer length
and the FL verdicts, then the meanings of the `W16` rows in the states of R180. -/
namespace Sys2Proof.Machine

/-- A result of codes 0–2: the code-3 fields are 0 (R175). -/
def plainResult (frames : List Nat) (payloadOffset total : Nat) (sd : Bool) : Result :=
  { frameCount := frames.length, frames := frames, payloadOffset := payloadOffset, total := total, sd := sd
    isCbr := false, hasPadding := false, paddingSize := 0 }

/-! ## Code 0 -/

/-- The implicit frame of code 0 (R164). -/
def c0Implicit (L : Nat) : Except ErrKind Result :=
  if Config.frameMax < L - 1 then .error .invalidFrameSize else .ok (plainResult [L - 1] 1 L false)

/-- PKT_C0's decision (R164, R172, R173) on the verdict of FLDEC(1). -/
def c0Decide (L : Nat) : FlVerdict → Except ErrKind Result
  | .busError => .error .busError
  | .insufficient => c0Implicit L
  | .ok size n =>
    if 1 + n + size ≤ L then .ok (plainResult [size] (1 + n) (1 + n + size) true) else c0Implicit L

/-- PKT_C0 on a buffer (R164): a TOC alone is one empty frame, and FLDEC(1) is not tried. -/
def c0Rule (L : Nat) (B : Nat → Option Byte) : Except ErrKind Result :=
  if L = 1 then .ok (plainResult [0] 1 1 false) else c0Decide L (fldec L B 1)

/-! ## Code 1 -/

/-- The even split of code 1 (R165). -/
def c1Implicit (L : Nat) : Except ErrKind Result :=
  if (L - 1) % 2 = 1 then .error .invalidFrameSize
  else if Config.frameMax < (L - 1) / 2 then .error .invalidFrameSize
  else .ok (plainResult [(L - 1) / 2, (L - 1) / 2] 1 L false)

/-- PKT_C1's decision (R165) on the verdict of FLDEC(1). -/
def c1Decide (L : Nat) : FlVerdict → Except ErrKind Result
  | .busError => .error .busError
  | .insufficient => c1Implicit L
  | .ok size n =>
    if 1 + n + 2 * size ≤ L then .ok (plainResult [size, size] (1 + n) (1 + n + 2 * size) true) else c1Implicit L

/-! ## Code 2 -/

/-- Frame 2 implicit (R166). -/
def c2Implicit (L s1 n1 : Nat) : Except ErrKind Result :=
  if Config.frameMax < s1 then .error .invalidFrameSize
  else if L < 1 + n1 + s1 then .error .invalidFrameSize
  else if Config.frameMax < L - 1 - n1 - s1 then .error .invalidFrameSize
  else .ok (plainResult [s1, L - 1 - n1 - s1] (1 + n1) L false)

/-- PKT_C2's decision (R166) on frame 1's code and the verdict of FLDEC(1 + n1). -/
def c2Decide (L s1 n1 : Nat) : FlVerdict → Except ErrKind Result
  | .busError => .error .busError
  | .insufficient => c2Implicit L s1 n1
  | .ok s2 n2 =>
    if 1 + n1 + n2 + s1 + s2 ≤ L then
      .ok (plainResult [s1, s2] (1 + n1 + n2) (1 + n1 + n2 + s1 + s2) true)
    else c2Implicit L s1 n1

/-! ## Code 3 -/

/-- The last frame of a VBR packet (R169): `sizes` are the explicit ones. -/
def vbrDecide (L off pad : Nat) (pf : Bool) (sizes : List Nat) : Except ErrKind Result :=
  if L < off + pad + sizes.sum then .error .invalidFrameSize
  else if Config.frameMax < L - off - pad - sizes.sum then .error .invalidFrameSize
  else .ok
    { frameCount := sizes.length + 1, frames := sizes ++ [L - off - pad - sizes.sum], payloadOffset := off, total := L
      sd := false, isCbr := false, hasPadding := pf, paddingSize := pad }

/-! ## Meanings -/

/-- After an attempt that the result counts in its header, the cursor stands at the payload (10_state R21, R172). -/
def State.moveTo (s : State) (off : Nat) : State := { s with w := { s.w with off := BitVec.ofNat 24 off } }

/-- A shape of codes 0–2 ends: the cursor moves past the header it accepted, and the decode ends. -/
def finishPlain (x : Except ErrKind Result) (s : State) : State :=
  match x with
  | .error e => raiseError e s
  | .ok r => commit r (s.moveTo r.payloadOffset)

/-- PKT_C0 in `S_SD` (R164, R181). -/
def execPktC0 (s : State) : Out :=
  .next (finishPlain (c0Rule s.len s.B) (if s.len = 1 then s else s.latchVerdict (fldec s.len s.B 1)))

/-- PKT_C1 in `S_SD` (R165, R181). -/
def execPktC1 (s : State) : Out :=
  .next (finishPlain (c1Decide s.len (fldec s.len s.B 1)) (s.latchVerdict (fldec s.len s.B 1)))

/-- `S_C2A`: frame 1's code (R166, R181). -/
def c2First (s : State) : State :=
  match fldec s.len s.B 1 with
  | .insufficient => raiseError .insufficientData s
  | .busError => raiseError .busError s
  | .ok size n =>
    let t := s.latchFl size n
    { t with w := { t.w with
      s1 := BitVec.ofNat 11 size, n1 := BitVec.ofNat 2 n, off := BitVec.ofNat 24 (1 + n), state := .sC2b } }

/-- `S_C2B`: the attempt for frame 2, or the implicit frame 2 (R166, R181). -/
def c2Second (s : State) : State :=
  let a := fldec s.len s.B (1 + s.w.n1.toNat)
  finishPlain (c2Decide s.len s.w.s1.toNat s.w.n1.toNat a) (s.latchVerdict a)

/-- PKT_C2 (R166): its second half in `S_C2B`, else its first. -/
def execPktC2 (s : State) : Out :=
  .next (if s.w.state = .sC2b then c2Second s else c2First s)

/-- The FC byte is read (R167): `w.FC <- B(1)`, `w.OFF <- 2`, `w.PAD <- 0`, and no PAD byte is counted yet (R143). -/
def readFc (fc : Byte) (s : State) : State :=
  { s with w := { s.w with fc := fc, off := 2#24, pad := 0#32, np := 0#24 } }

/-- A legal FC byte (R167, R168, R181): the padding code if `p`, else straight on. -/
def c3Header (fc : Byte) (s : State) : State :=
  if fcP fc then (readFc fc s).goto .sPad else afterPadding (readFc fc s)

/-- The illegal FC byte (R167): `w.FC <- B(1)`, `w.OFF <- 2`, then InvalidHeader (60_exceptions R283). -/
def c3Illegal (fc : Byte) (s : State) : State :=
  raiseError .invalidHeader { s with w := { s.w with fc := fc, off := 2#24 } }

/-- PKT_C3_M0 (R167, R99): frame count 0 is InvalidHeader. -/
def execPktC3M0 (v p : Bool) (s : State) : Out := .next (c3Illegal (fcByte v p 0#6) s)

/-- PKT_C3_MBIG_49 (R167, R99): InvalidHeader. -/
def execPktC3Mbig49 (v p : Bool) (s : State) : Out := .next (c3Illegal (fcByte v p 49#6) s)

/-- PKT_C3_MBIG_50_51 (R167, R99): InvalidHeader. -/
def execPktC3Mbig50to51 (v p : Bool) (m : BitVec 6) (s : State) : Out := .next (c3Illegal (fcByte v p m) s)

/-- PKT_C3_MBIG_52_55 (R167, R99): InvalidHeader. -/
def execPktC3Mbig52to55 (v p : Bool) (m : BitVec 6) (s : State) : Out := .next (c3Illegal (fcByte v p m) s)

/-- PKT_C3_MBIG_56_63 (R167, R99): InvalidHeader. -/
def execPktC3Mbig56to63 (v p : Bool) (m : BitVec 6) (s : State) : Out := .next (c3Illegal (fcByte v p m) s)

/-- The explicit sizes of a VBR packet, `w.S[0 .. M-2]`. -/
def explicitSizes (s : State) : List Nat := (s.w.sizes.toList.take (s.m - 1)).map BitVec.toNat

/-- `w.SUM`, the running sum of the explicit sizes. -/
def State.sum (s : State) : Nat := s.w.sum.toNat

/-- The last frame: what the buffer leaves after header, padding and `w.SUM` (R169). -/
def lastFrame (s : State) : Nat := s.len - s.off - s.pad - s.sum

/-- `w.S[M-1] <- last` (R169). -/
def storeLast (s : State) : State :=
  { s with w := { s.w with sizes := s.w.sizes.setIfInBounds (s.m - 1) (BitVec.ofNat 11 (lastFrame s)) } }

/-- The result of a VBR packet (R169). -/
def vbrResult (s : State) : Result :=
  { frameCount := s.m, frames := explicitSizes s ++ [lastFrame s], payloadOffset := s.off, total := s.len
    sd := false, isCbr := false, hasPadding := s.pf, paddingSize := s.pad }

/-- `S_VLAST` (R169, R181): the last frame must not be negative nor above the ceiling. -/
def vbrLast (s : State) : State :=
  if s.len < s.off + s.pad + s.sum then raiseError .invalidFrameSize s
  else if Config.frameMax < lastFrame s then raiseError .invalidFrameSize s
  else commit (vbrResult s) (storeLast s)

/-- PKT_C3_VBR (R167–R169): the last frame in `S_VLAST`, else the header. -/
def execPktC3Vbr (p : Bool) (m : BitVec 6) (s : State) : Out :=
  .next (if s.w.state = .sVlast then vbrLast s else c3Header (fcByte true p m) s)

/-- PKT_C3_CBR (R167, R168, R170, R171): the dispatch in `S_CBR`, the split in `S_CFIN`, else the header. -/
def execPktC3Cbr (p : Bool) (m : BitVec 6) (s : State) : Out :=
  .next
    (if s.w.state = .sCbr then cbrDispatch s
     else if s.w.state = .sCfin then cbrFinish s
     else c3Header (fcByte false p m) s)

end Sys2Proof.Machine
end

