-- ==== Sys2Proof/Machine/PacketDecode.lean ====
section
/-! DEFINITION. DECODE as one pure function of the buffer (42_packet_fsm R160–R171; 43_boundary R220–R228): the normative
meaning that the state machine of `Engine.lean` computes (R181). -/
namespace Sys2Proof.Machine

/-- What a suspended CBR decode holds for RESUME (43_boundary R226, R230). -/
structure BoundaryCtx where
  hdr : Hdr
  off : Nat
  pad : Nat
  m   : Nat
  pf  : Bool
  deriving DecidableEq, Repr

/-- The outcome of a decode (00_scope R11). -/
inductive Verdict where
  | done (p : Packet)
  | error (e : ErrKind)
  | needBoundary (c : BoundaryCtx)
  deriving DecidableEq, Repr

/-- The header of a packet (R200): the TOC byte with its split and LUT outputs, and the FC byte of code 3. -/
def headerOf (toc fc : Byte) : Hdr :=
  { toc := toc, fields := tocSplit toc, lut := cfgLut (tocConfig toc), fc := if tocCode toc = 3#2 then fc else 0#8 }

/-- A rule's decision as an outcome. -/
def verdictOf (h : Hdr) : Except ErrKind Result → Verdict
  | .error e => .error e
  | .ok r => .done { hdr := h, res := r }

/-- PKT_C2 on a buffer (R166). -/
def c2Rule (L : Nat) (B : Nat → Option Byte) : Except ErrKind Result :=
  match fldec L B 1 with
  | .insufficient => .error .insufficientData
  | .busError => .error .busError
  | .ok s1 n1 => c2Decide L s1 n1 (fldec L B (1 + n1))

/-- The padding step of code 3 (R168): the padding total and the offset after the code. -/
def padRule (L : Nat) (B : Nat → Option Byte) (p : Bool) : Except ErrKind (Nat × Nat) :=
  if p then
    match paddec L B 2 with
    | .insufficient => .error .insufficientData
    | .busError => .error .busError
    | .ok total n => .ok (total, 2 + n)
  else .ok (0, 2)

/-- The explicit sizes of a VBR packet (R169): `count` FL codes from `off` on, and the offset after them. -/
def vbrSizes (L : Nat) (B : Nat → Option Byte) : (count off : Nat) → Except ErrKind (List Nat × Nat)
  | 0, off => .ok ([], off)
  | count + 1, off =>
    match fldec L B off with
    | .insufficient => .error .insufficientData
    | .busError => .error .busError
    | .ok size n =>
      match vbrSizes L B count (off + n) with
      | .error e => .error e
      | .ok (sizes, off') => .ok (size :: sizes, off')

/-- PKT_C3_VBR after the padding code (R169). -/
def vbrRule (L : Nat) (B : Nat → Option Byte) (pad off m : Nat) (pf : Bool) : Except ErrKind Result :=
  match vbrSizes L B (m - 1) off with
  | .error e => .error e
  | .ok (sizes, off') => vbrDecide L off' pad pf sizes

/-- PKT_C3_CBR after the padding code (R170; 43_boundary R221–R225). -/
def cbrRule (L : Nat) (lx : Bool) (h : Hdr) (pad off m : Nat) (pf : Bool) : Verdict :=
  if lx then verdictOf h (cbrSplit L L off pad m pf)
  else if L < rangeMin off pad m then .done { hdr := h, res := unresolvedResult off pad m pf }
  else if rangeMax off pad m < L then .needBoundary { hdr := h, off := off, pad := pad, m := m, pf := pf }
  else verdictOf h (cbrSplit L L off pad m pf)

/-- PKT_C3 (R167, R168, then R169 or R170). -/
def c3Rule (L : Nat) (lx : Bool) (B : Nat → Option Byte) (toc : Byte) : Verdict :=
  if L < 2 then .error .insufficientData
  else
    match B 1 with
    | none => .error .busError
    | some fc =>
      if (fcM fc).toNat = 0 then .error .invalidHeader
      else if Config.maxFrames < (fcM fc).toNat then .error .invalidHeader
      else
        match padRule L B (fcP fc) with
        | .error e => .error e
        | .ok (pad, off) =>
          if fcV fc then verdictOf (headerOf toc fc) (vbrRule L B pad off (fcM fc).toNat (fcP fc))
          else cbrRule L lx (headerOf toc fc) pad off (fcM fc).toNat (fcP fc)

/-- DECODE (R160): a function of the length, the exactness flag and the bytes it reads (R208). -/
def decodePacket (L : Nat) (lx : Bool) (B : Nat → Option Byte) : Verdict :=
  if L = 0 then .error .insufficientData
  else
    match B 0 with
    | none => .error .busError
    | some toc =>
      if tocCode toc = 0#2 then verdictOf (headerOf toc 0#8) (c0Rule L B)
      else if tocCode toc = 1#2 then verdictOf (headerOf toc 0#8) (c1Decide L (fldec L B 1))
      else if tocCode toc = 2#2 then verdictOf (headerOf toc 0#8) (c2Rule L B)
      else c3Rule L lx B toc

/-- The boundary check a decode reaches, if it does (43_boundary R220): code 3, CBR, the length not known exact, after the
padding code. Then the range registers are written (10_state R40, R41). -/
def rangeReached (L : Nat) (lx : Bool) (B : Nat → Option Byte) : Option BoundaryCtx :=
  if lx || decide (L < 2) then none
  else
    match B 0, B 1 with
    | some toc, some fc =>
      if tocCode toc = 3#2 ∧ 1 ≤ (fcM fc).toNat ∧ (fcM fc).toNat ≤ Config.maxFrames ∧ fcV fc = false then
        match padRule L B (fcP fc) with
        | .ok (pad, off) => some { hdr := headerOf toc fc, off := off, pad := pad, m := (fcM fc).toNat, pf := fcP fc }
        | .error _ => none
      else none
    | none, none => none
    | none, some _ => none
    | some _, none => none

/-- A rule's decision as what decode_packet returns (44_host_interface R259). -/
def returned (h : Hdr) : Except ErrKind Result → FwResult
  | .error e => .error e
  | .ok r => .packet { hdr := h, res := r }

/-- The end of a suspended decode with the firmware's answer `T` (43_boundary R226). -/
def resumeRule (L T : Nat) (c : BoundaryCtx) : FwResult :=
  if T = 0 then .packet { hdr := c.hdr, res := unresolvedResult c.off c.pad c.m c.pf }
  else returned c.hdr (cbrSplit L T c.off c.pad c.m c.pf)

end Sys2Proof.Machine
end

