-- ==== Sys2Proof/Machine/Firmware.lean ====
section
/-! DEFINITION. The firmware contracts (43_boundary R231, R232; 44_host_interface R259, R260, R262) as functions of the buffer.
00_scope R5 keeps them out of the hardware; the host agent of 00_scope R14 runs them through the CSR port (`Routines.lean`). -/
namespace Sys2Proof.Machine

/-- The loop of SEARCH (R231) over `fuel` candidates from `c` on. `accept` is the extra test of strong mode (R232). -/
def searchFrom (B : Nat → Option Byte) (L : Nat) (toc fc : Byte) (accept : Nat → Bool) : (fuel c : Nat) → Nat
  | 0, _ => 0
  | fuel + 1, c =>
    if L ≤ c + 1 then 0
    else if B c == some toc && B (c + 1) == some fc && accept c then c
    else searchFrom B L toc fc accept fuel (c + 1)

/-- Does the buffer decode successfully from offset `c` on (R232, with `LEN_EXACT = 0`)? -/
def decodesAt (B : Nat → Option Byte) (L c : Nat) : Bool :=
  match decodePacket (L - c) false (fun i => B (c + i)) with
  | .done _ => true
  | .error _ => false
  | .needBoundary _ => true

/-- SEARCH (R231), or its strong variant (R232): the first boundary candidate in `[lo, hi]`, or 0. -/
def search (strong : Bool) (B : Nat → Option Byte) (L lo hi : Nat) (toc fc : Byte) : Nat :=
  searchFrom B L toc fc (fun c => !strong || decodesAt B L c) (hi + 1 - lo) lo

/-- The end of a decode as the firmware's return value: where it waits for a boundary, the firmware searches and answers. -/
def fwOutcome (strong : Bool) (B : Nat → Option Byte) (L : Nat) : Verdict → FwResult
  | .done p => .packet p
  | .error e => .error e
  | .needBoundary c =>
    resumeRule L (search strong B L (rangeMin c.off c.pad c.m) (rangeMax c.off c.pad c.m) c.hdr.toc c.hdr.fc) c

/-- decode_packet (R259) on a buffer of `n` bytes, as a function of the buffer. DESIGN CHOICE (log 16): for `n ≥ 2^24`, where
R259 has the firmware split the call or fall back to software and defines no other path (U21), it is the same function. -/
def fwDecodePacket (strong : Bool) (B : Nat → Option Byte) (n : Nat) : FwResult :=
  fwOutcome strong B n (decodePacket n false B)

/-- The buffer from offset `c` on. -/
def fromOffset (B : Nat → Option Byte) (c : Nat) (i : Nat) : Option Byte := B (c + i)

/-- Where the probe after an unresolved packet at `cur` begins (R262). -/
def probeStart (cur : Nat) (p : Packet) : Nat := cur + p.res.payloadOffset + p.res.frames.getD 0 0 * p.res.frameCount

/-- The probe of the scanner (R262): the first `q` of `fuel` positions from `q` on, below `L`, at which a packet decodes. -/
def probeFrom (strong : Bool) (B : Nat → Option Byte) (L : Nat) : (fuel q : Nat) → Option Nat
  | 0, _ => none
  | fuel + 1, q =>
    if L ≤ q then none
    else
      match fwDecodePacket strong (fromOffset B q) (L - q) with
      | .packet _ => some q
      | .error _ => probeFrom strong B L fuel (q + 1)

/-- Where the scanner goes after a packet at `cur` (R262). -/
def nextCursor (strong : Bool) (B : Nat → Option Byte) (L cur : Nat) (p : Packet) : Nat :=
  if 0 < p.res.total then cur + p.res.total
  else
    match probeFrom strong B L Config.scanProbeMax (probeStart cur p) with
    | some q => q
    | none => cur + 1

/-- SWEEP (R262): the packets and the offsets they stand at; `L` iterations suffice. -/
def sweepFrom (strong : Bool) (B : Nat → Option Byte) (L : Nat) : (fuel cur : Nat) → List (Packet × Nat)
  | 0, _ => []
  | fuel + 1, cur =>
    if L ≤ cur then []
    else
      match fwDecodePacket strong (fromOffset B cur) (L - cur) with
      | .error _ => sweepFrom strong B L fuel (cur + 1)
      | .packet p => (p, cur) :: sweepFrom strong B L fuel (nextCursor strong B L cur p)

/-- scan_stream (R260): the first packet from `cur` on and the cursor after it; `none`, NoPacketFound, means that the cursor
reached `L`. -/
def scanFrom (strong : Bool) (B : Nat → Option Byte) (L : Nat) : (fuel cur : Nat) → Option (Packet × Nat)
  | 0, _ => none
  | fuel + 1, cur =>
    if L ≤ cur then none
    else
      match fwDecodePacket strong (fromOffset B cur) (L - cur) with
      | .error _ => scanFrom strong B L fuel (cur + 1)
      | .packet p => some (p, nextCursor strong B L cur p)

/-- `scan_stream(bytes, length, start_cursor)` (R260). -/
def scanStream (strong : Bool) (B : Nat → Option Byte) (L start : Nat) : Option (Packet × Nat) :=
  scanFrom strong B L (L - start) start

end Sys2Proof.Machine
end

