-- ==== Sys2Proof/Machine/Commands.lean ====
section
/-! DEFINITION. The host's commands (44_host_interface R250–R257; 43_boundary R226). -/
namespace Sys2Proof.Machine

/-- An accepted START (R251): latch the inputs, clear the cursor, the flags and the `BND_*` registers, enter `S_TOC`.
`IRQ_PEND` and the result registers stay. -/
def startDecode (s : State) : State :=
  { s with
    csr := { s.csr with
      resultValid := false, unresolved := false, err := none
      bndMin := 0#32, bndMax := 0#32, bndSig := 0#16, bndTotal := 0#32 }
    w := { s.w with
      base := BitVec.ofNat 32 (s.csr.bufBase.toNat % 2 ^ s.platform.addrW)
      len := s.csr.bufLen
      lx := s.csr.lenExact
      off := 0#24, pad := 0#32, sum := 0#17, k := 0#6
      state := .sToc } }

/-- RESUME acts in WAIT_BND only (43_boundary R226; R254). -/
def resumeIfWaiting (s : State) : State := if s.w.state = .sWaitBnd then resume s else s

/-- The engine accepts a START (R251): IDLE or DONE. -/
def State.acceptsStart (s : State) : Bool := decide (s.w.state = .sIdle) || decide (s.w.state = .sDone)

/-- CMD_START (R251, R254): the CTRL update, then START in IDLE or DONE; with bit 1 also set, RESUME in WAIT_BND. -/
def execCmdStart (resumeBit lenExact irqEn : Bool) (s : State) : Out :=
  let t := s.writeCtrl lenExact irqEn
  .next (if t.acceptsStart then startDecode t else if resumeBit then resumeIfWaiting t else t)

/-- CMD_RESUME (43_boundary R226). -/
def execCmdResume (lenExact irqEn : Bool) (s : State) : Out :=
  .next (resumeIfWaiting (s.writeCtrl lenExact irqEn))

/-- CMD_ABORT (R253): `w.STATE <- S_IDLE`; every result and flag stays. -/
def execCmdAbort (lenExact irqEn : Bool) (s : State) : Out :=
  .next ((s.writeCtrl lenExact irqEn).goto .sIdle)

/-- WR_CTRL_CFG (R256). -/
def execWrCtrlCfg (lenExact irqEn : Bool) (s : State) : Out := .next (s.writeCtrl lenExact irqEn)

/-- CMD_IRQ_ACK (R255; 60_exceptions R292). -/
def execCmdIrqAck (s : State) : Out := .next { s with csr := { s.csr with irqPend := false } }

/-- WR_BUF_BASE (R256): stored AND `2^ADDR_W - 1`. -/
def execWrBufBase (data : Word) (s : State) : Out :=
  .next { s with csr := { s.csr with bufBase := BitVec.ofNat 32 (data.toNat % 2 ^ s.platform.addrW) } }

/-- WR_BUF_LEN (R256): stored AND `0x00FF_FFFF`. -/
def execWrBufLen (data : Word) (s : State) : Out :=
  .next { s with csr := { s.csr with bufLen := data.setWidth 24 } }

/-- WR_BND_TOTAL (R256). -/
def execWrBndTotal (data : Word) (s : State) : Out := .next { s with csr := { s.csr with bndTotal := data } }

/-- RD_CSR (R257): the port returns the current value; nothing else changes (20_memory R79). -/
def execRdCsr (offset : BitVec 7) (s : State) : Out := .next { s with rdata := s.csrRead (4 * offset.toNat) }

end Sys2Proof.Machine
end

