-- ==== Sys2Proof/Machine/TocConfig.lean ====
section
/-! DEFINITION. The two rows of the TOC byte: TOC_SPLIT and CFG_LUT (40_toc_config R120, R122; 42_packet_fsm R162). -/
namespace Sys2Proof.Machine

/-- Where the TOC step goes (42_packet_fsm R163, R181): the shape its code selects. -/
def stateOfCode (code : BitVec 2) : EngineState :=
  if code = 2#2 then .sC2a else if code = 3#2 then .sFc else .sSd

/-- TOC_SPLIT (R120, R160): the byte and its three fields are held for the commit, `w.FC <- 0`, `w.OFF <- 1`, and the
code selects the next state. -/
def execTocSplit (config : BitVec 5) (stereo : Bool) (code : BitVec 2) (s : State) : Out :=
  .next { s with w := { s.w with
    toc := tocByte config stereo code
    fields := tocSplit (tocByte config stereo code)
    fc := 0#8
    off := 1#24
    state := stateOfCode code } }

/-- CFG_LUT (R122, R162): the table's outputs are held for the commit; nothing steers the decode. -/
def execCfgLut (config : BitVec 5) (s : State) : Out :=
  .next { s with w := { s.w with lut := cfgLut config } }

end Sys2Proof.Machine
end

