-- ==== Sys2Proof/Machine/Dispatch.lean ====
section
/-! DEFINITION. One arm per instruction, each a call of its meaning. -/
namespace Sys2Proof.Machine

def exec (i : Instr) (s : State) : Host.Outcome State Fault Refusal :=
  match i with
  | .tocSplit config stereo code => Sys2Proof.Machine.execTocSplit config stereo code s
  | .cfgLut config => Sys2Proof.Machine.execCfgLut config s
  | .pktC3M0 _ _ v p => Sys2Proof.Machine.execPktC3M0 v p s
  | .pktC3Mbig49 _ _ v p => Sys2Proof.Machine.execPktC3Mbig49 v p s
  | .pktC3Mbig50to51 _ _ v p m => Sys2Proof.Machine.execPktC3Mbig50to51 v p m s
  | .pktC3Mbig52to55 _ _ v p m => Sys2Proof.Machine.execPktC3Mbig52to55 v p m s
  | .pktC3Mbig56to63 _ _ v p m => Sys2Proof.Machine.execPktC3Mbig56to63 v p m s
  | .pktC0 _ _ => Sys2Proof.Machine.execPktC0 s
  | .pktC1 _ _ => Sys2Proof.Machine.execPktC1 s
  | .pktC2 _ _ => Sys2Proof.Machine.execPktC2 s
  | .pktC3Vbr _ _ p m => Sys2Proof.Machine.execPktC3Vbr p m s
  | .pktC3Cbr _ _ p m => Sys2Proof.Machine.execPktC3Cbr p m s
  | .flZero => Sys2Proof.Machine.execFlZero s
  | .fl2b b0 b1 => Sys2Proof.Machine.execFl2b b0 b1 s
  | .fl1b b0 => Sys2Proof.Machine.execFl1b b0 s
  | .padCont => Sys2Proof.Machine.execPadCont s
  | .padTerm b => Sys2Proof.Machine.execPadTerm b s
  | .cmdStart resumeBit lenExact irqEn => Sys2Proof.Machine.execCmdStart resumeBit lenExact irqEn s
  | .cmdResume lenExact irqEn => Sys2Proof.Machine.execCmdResume lenExact irqEn s
  | .cmdAbort lenExact irqEn => Sys2Proof.Machine.execCmdAbort lenExact irqEn s
  | .wrCtrlCfg lenExact irqEn => Sys2Proof.Machine.execWrCtrlCfg lenExact irqEn s
  | .cmdIrqAck => Sys2Proof.Machine.execCmdIrqAck s
  | .wrBufBase data => Sys2Proof.Machine.execWrBufBase data s
  | .wrBufLen data => Sys2Proof.Machine.execWrBufLen data s
  | .wrBndTotal data => Sys2Proof.Machine.execWrBndTotal data s
  | .rdCsr offset => Sys2Proof.Machine.execRdCsr offset s

end Sys2Proof.Machine
end

