-- ==== Sys2Proof/Machine/Engine.lean ====
section
/-! DEFINITION. One engine step (42_packet_fsm R180, R181): which row stands at the engine's position (`w.STATE`, `w.OFF`;
10_state R21), and its execution. -/
namespace Sys2Proof.Machine

/-- What the engine finds at its position. -/
inductive Fetch where
  /-- IDLE, WAIT_BND and DONE take no engine step (70_reset_and_hazards R320). -/
  | quiet
  /-- No byte, or a bus error: the decode ends (60_exceptions R282, R285). -/
  | error (e : ErrKind)
  /-- One row. -/
  | run (i : Instr)
  /-- The TOC byte: two rows, TOC_SPLIT and CFG_LUT (42_packet_fsm R162). -/
  | runBoth (i j : Instr)
  deriving DecidableEq, Repr

/-- A decoded element; bytes that end inside it are InsufficientData. -/
def fetched : Decoded → Fetch
  | .instr i _ => .run i
  | .reject _ => .error .insufficientData

/-- The TOC byte's two rows. -/
def fetchedToc (b : Byte) : Fetch :=
  match decode (.element .toc [b]), decode (.element .lut [b]) with
  | .instr i _, .instr j _ => .runBoth i j
  | .instr _ _, .reject _ => .error .insufficientData
  | .reject _, .instr _ _ => .error .insufficientData
  | .reject _, .reject _ => .error .insufficientData

/-- The `W16` row of the latched bytes, which the engine is inside of (30_encoding R93). -/
def fetchWindow (s : State) : Fetch := .run (decodeWindow s.w.toc s.w.fc)

/-- One byte at offset `i`, checked against `w.L` first (20_memory R73). -/
def fetchByte (s : State) (i : Nat) (site : Byte → Fetch) : Fetch :=
  if s.len ≤ i then .error .insufficientData
  else
    match s.B i with
    | none => .error .busError
    | some b => site b

/-- The fetch of each state (42_packet_fsm R180, R181). -/
def fetch (s : State) : Fetch :=
  match s.w.state with
  | .sIdle => .quiet
  | .sToc => fetchByte s 0 fetchedToc
  | .sSd => fetchWindow s
  | .sC2a => fetchWindow s
  | .sC2b => fetchWindow s
  | .sFc => fetchByte s 1 fun fc => fetched (decode (.element .shape [s.w.toc, fc]))
  | .sPad => fetchByte s (2 + s.w.np.toNat) fun b => fetched (decode (.element .pad [b]))
  | .sVlen =>
    match flBytes s.len s.B s.off with
    | none => .error .busError
    | some bytes => fetched (decode (.element .fl bytes))
  | .sVlast => fetchWindow s
  | .sCbr => fetchWindow s
  | .sWaitBnd => .quiet
  | .sCfin => fetchWindow s
  | .sDone => .quiet

/-- Run one thing after another; a stop of the first stops both. -/
def andThen (x : Out) (f : State → Out) : Out :=
  match x with
  | .next s => f s
  | .fault r => .fault r
  | .refused r => .refused r

/-- One engine step. -/
def engineStep (s : State) : Out :=
  match fetch s with
  | .quiet => .next s
  | .error e => .next (raiseError e s)
  | .run i => exec i s
  | .runBoth i j => andThen (exec i s) (exec j)

end Sys2Proof.Machine
end

