-- ==== Sys2Proof/Machine/HostPort.lean ====
section
/-! DEFINITION. The plain steps the outside world takes: CSR accesses (10_state R46; 44_host_interface R250), buffer stores
(20_memory R83), accesses by bus address (R70, R80), reset (70_reset_and_hazards R310), and POLL (44_host_interface R258). -/
namespace Sys2Proof.Machine

/-- An access at the CSR port. A write without a row does nothing (10_state R43; 20_memory R79); the decoder of an access
never answers `truncated`. -/
def csrPort (a : CsrAccess) (s : State) : Out :=
  match decode (.csr a) with
  | .instr i _ => exec i s
  | .reject (.truncated _) => .next s
  | .reject (.ignoredWrite _) => .next s
  | .reject .unsupportedCsrAccess => .fault .unsupportedCsrAccess

/-- Reset (R310): every CSR and `w.STATE` take their reset values; memory and firmware, outside the block, stay. DESIGN CHOICE
(log 1): the other working registers take 0. -/
def resetBlock (s : State) : State :=
  { State.reset with mem := s.mem, host := s.host, fw := s.fw, platform := s.platform }

/-- A host store into the buffer space; into the running decode's buffer it is a race (20_memory R83; 60_exceptions R301). -/
def bufferStore (a : Word) (b : Byte) (s : State) : Out :=
  if s.busy && s.inBuffer a then .fault .bufferRace else .next (hostStore a b s)

/-- The window offset of a bus address, if it lies in the CSR window (10_state R22; 20_memory R70, R80). -/
def windowOffset (p : Platform) (addr : Word) : Option (BitVec 9) :=
  if (addr - p.csrBase).toNat < 0x200 then some ((addr - p.csrBase).setWidth 9) else none

/-- The byte stores of a bus write to memory. DEDUCED (log 5): byte lane 0 carries bits 7:0, as at the CSR port (R77).
DESIGN CHOICE (log 5): the spec does not say how a store is split that starts up to 3 bytes below the CSR window and runs into
it; all its bytes go to memory, those at window addresses too. Nor does it say what a store does that runs past bus address
0xFFFF_FFFF; its bytes go on at address 0. -/
def storesOf (addr : Word) (data : Word) : Width → List HostOp
  | .byte => [.store addr (data.extractLsb' 0 8)]
  | .half => [.store addr (data.extractLsb' 0 8), .store (addr + 1#32) (data.extractLsb' 8 8)]
  | .word =>
    [ .store addr (data.extractLsb' 0 8), .store (addr + 1#32) (data.extractLsb' 8 8),
      .store (addr + 2#32) (data.extractLsb' 16 8), .store (addr + 3#32) (data.extractLsb' 24 8) ]

/-- Put operations in front of those still to come. -/
def State.push (s : State) (ops : List HostOp) : State := { s with host := ops ++ s.host }

/-- POLL (44_host_interface R258): a read, and, until it matches, one engine step before the next read (log 3). -/
def pollStep (offset : BitVec 9) (mask value : Word) (s : State) : Out :=
  andThen (csrPort { write := false, offset := offset, width := .word, data := 0#32 } s) fun t =>
    .next (if t.rdata &&& mask = value then t else t.push [.engine, .poll offset mask value])

/-- A host load or store by bus address: at the CSR port if it starts in the window, else in memory (20_memory R70, R80). A load
from memory changes nothing in the model. -/
def busAccess (write : Bool) (addr : Word) (width : Width) (data : Word) (s : State) : Out :=
  match windowOffset s.platform addr with
  | some offset => csrPort { write := write, offset := offset, width := width, data := data } s
  | none => .next (if write then s.push (storesOf addr data width) else s)

end Sys2Proof.Machine
end

