-- ==== Sys2Proof/Machine/Routines.lean ====
section
/-! DEFINITION. The firmware routines as the host agent runs them, access by access, through the CSR port (00_scope R14;
44_host_interface R258–R262): each operation does its own part and puts what follows in front of the operations to come. -/
namespace Sys2Proof.Machine

/-- A WR of 44_host_interface R258. -/
def wr (offset : BitVec 9) (data : Word) : HostOp :=
  .csr { write := true, offset := offset, width := .word, data := data }

/-- Set the firmware's variables. -/
def State.setFw (s : State) (fw : Firmware) : State := { s with fw := fw }

/-! ## The boundary search -/

/-- Byte `i` of the buffer at bus address `a`, as the firmware's own load answers it (20_memory R71; log 16). -/
def fwByte (s : State) (a : Word) (i : Nat) : Option Byte := busRead s.platform s.mem (bufAddr s.platform a i)

/-- The value FW_SEARCH finds in the buffer from `BUF_BASE` on (43_boundary R231, R232). -/
def fwSearchValue (s : State) : Nat :=
  search s.platform.strongSearch (fwByte s s.csr.bufBase) s.csr.bufLen.toNat s.csr.bndMin.toNat s.csr.bndMax.toNat
    (s.csr.bndSig.extractLsb' 0 8) (s.csr.bndSig.extractLsb' 8 8)

/-! ## decode_packet (R259) -/

/-- The accesses of decode_packet. STATE is DONE or WAIT_BND exactly when bit 1 of STATUS is set (10_state R29). DESIGN CHOICE
(log 16): of the two ways to wait that R259 allows, POLL of STATUS and the wait for `irq` with `IRQ_EN = 1`, it polls. -/
def fwDecodeOps (a : Word) (n : Nat) : List HostOp :=
  [ wr 0x004#9 0x00010000#32, wr 0x008#9 a, wr 0x00C#9 (BitVec.ofNat 32 n), wr 0x000#9 0x00000001#32,
    .poll 0x004#9 2#32 2#32, .fwAnswer, .fwLoad 0x004#9, .fwReturn ]

/-- decode_packet(a, n). DESIGN CHOICE (log 16): of the two ways R259 allows for `n ≥ 2^24`, the firmware falls back to
software. -/
def fwDecodePacketOp (a : Word) (n : Nat) (s : State) : State :=
  if n < 2 ^ 24 then (s.setFw { s.fw with words := [], result := none }).push (fwDecodeOps a n)
  else s.setFw { s.fw with words := [], result := some (fwDecodePacket s.platform.strongSearch (fwByte s a) n) }

/-- `if STATE == WAIT_BND`: the search, RESUME, and the wait for DONE. -/
def fwAnswerOp (s : State) : State :=
  if s.visible = .waitBnd then s.push [.fwSearch, wr 0x000#9 2#32, .poll 0x004#9 3#32 3#32] else s

/-- An RD whose word the firmware keeps. -/
def fwLoadOp (offset : BitVec 9) (s : State) : Out :=
  andThen (csrPort { write := false, offset := offset, width := .word, data := 0#32 } s) fun t =>
    .next (t.setFw { t.fw with words := t.fw.words ++ [t.rdata] })

/-- Word `i` of those the firmware keeps: STATUS, HDR, PKT, PAYLOAD_OFFSET, PADDING_SIZE, TOTAL_SIZE, then FRAME_SIZE. -/
def Firmware.word (fw : Firmware) (i : Nat) : Word := fw.words.getD i 0#32

/-- `if STATUS.ERR != 0: return DecodeError`, else the reads of the record's registers. -/
def fwReturnOp (s : State) : State :=
  match statusErr (s.fw.word 0) with
  | some e => s.setFw { s.fw with result := some (.error e) }
  | none => s.push [.fwLoad 0x010#9, .fwLoad 0x014#9, .fwLoad 0x018#9, .fwLoad 0x01C#9, .fwLoad 0x020#9, .fwFrames]

/-- The reads of `FRAME_SIZE[0 .. FRAME_COUNT-1]`. -/
def fwFramesOp (s : State) : State :=
  s.push ((List.range (Pkt.ofWord (s.fw.word 2)).frameCount.toNat).map (fun k => .fwLoad (BitVec.ofNat 9 (0x100 + 4 * k)))
    ++ [.fwRecord])

/-- The DecodedPacket of the kept words (R259). -/
def recordOf (fw : Firmware) : Packet :=
  let pkt := Pkt.ofWord (fw.word 2)
  { hdr := Hdr.ofWord (fw.word 1)
    res :=
      { frameCount := pkt.frameCount.toNat, frames := (fw.words.drop 6).map BitVec.toNat
        payloadOffset := (fw.word 3).toNat, total := (fw.word 5).toNat, sd := pkt.selfDelim, isCbr := pkt.isCbr
        hasPadding := pkt.hasPadding, paddingSize := (fw.word 4).toNat } }

/-- `return DecodedPacket`. -/
def fwRecordOp (s : State) : State := s.setFw { s.fw with result := some (.packet (recordOf s.fw)) }

/-! ## The scanner (R260, R262) -/

/-- The scanner's cursor moves on. -/
def State.setCursor (s : State) (cur : Nat) : State := s.setFw { s.fw with cursor := cur }

/-- decode_packet(a + c, L - c), then `op`. -/
def decodeAt (a : Word) (L c : Nat) (op : HostOp) : List HostOp := [.decodePacket (a + BitVec.ofNat 32 c) (L - c), op]

/-- scan_stream(a, L, cur). -/
def scanStreamOp (a : Word) (L cur : Nat) (s : State) : State :=
  (s.setFw { s.fw with cursor := cur, found := none }).push [.scan a L]

/-- `while cur < L`. -/
def scanOp (a : Word) (L : Nat) (s : State) : State :=
  if s.fw.cursor < L then s.push (decodeAt a L s.fw.cursor (.scanNext a L)) else s

/-- A packet is found at the cursor: emit it, then move past its total, or probe where the total is unresolved. -/
def scanFound (a : Word) (L : Nat) (p : Packet) (s : State) : State :=
  let t := s.setFw { s.fw with found := some (p, s.fw.cursor), emitted := s.fw.emitted ++ [(p, s.fw.cursor)] }
  if 0 < p.res.total then t.setCursor (s.fw.cursor + p.res.total)
  else t.push [.probe a L (probeStart s.fw.cursor p) Config.scanProbeMax]

/-- What the loop does with `r`: the next byte after an error, the end of scan_stream after a packet. -/
def scanNextOp (a : Word) (L : Nat) (s : State) : State :=
  match s.fw.result with
  | some (.error _) => (s.setCursor (s.fw.cursor + 1)).push [.scan a L]
  | some (.packet p) => scanFound a L p s
  | none => s

/-- One position of the probe; past the window or the buffer the cursor moves by 1. -/
def probeOp (a : Word) (L q left : Nat) (s : State) : State :=
  if left = 0 ∨ L ≤ q then s.setCursor (s.fw.cursor + 1) else s.push (decodeAt a L q (.probeNext a L q left))

/-- Any success ends the probe there. -/
def probeNextOp (a : Word) (L q left : Nat) (s : State) : State :=
  match s.fw.result with
  | some (.error _) => s.push [.probe a L (q + 1) (left - 1)]
  | some (.packet _) => s.setCursor q
  | none => s

/-- SWEEP goes on from the cursor while packets are found. -/
def sweepNextOp (a : Word) (L : Nat) (s : State) : State :=
  if s.fw.found.isSome then s.push [.sweep a L s.fw.cursor] else s

/-! ## One host operation -/

/-- One host operation, already taken off the list. -/
def hostStep (op : HostOp) (s : State) : Out :=
  match op with
  | .csr access => csrPort access s
  | .store addr b => bufferStore addr b s
  | .busWrite addr width data => busAccess true addr width data s
  | .busRead addr width => busAccess false addr width 0#32 s
  | .reset => .next (resetBlock s)
  | .engine => engineStep s
  | .poll offset mask value => pollStep offset mask value s
  | .waitIrq => .next (if s.irq then s else s.push [.engine, .waitIrq])
  | .fwSearch => .next (s.push [wr 0x030#9 (BitVec.ofNat 32 (fwSearchValue s))])
  | .decodePacket a n => .next (fwDecodePacketOp a n s)
  | .fwAnswer => .next (fwAnswerOp s)
  | .fwLoad offset => fwLoadOp offset s
  | .fwReturn => .next (fwReturnOp s)
  | .fwFrames => .next (fwFramesOp s)
  | .fwRecord => .next (fwRecordOp s)
  | .scanStream a L cur => .next (scanStreamOp a L cur s)
  | .scan a L => .next (scanOp a L s)
  | .scanNext a L => .next (scanNextOp a L s)
  | .probe a L q left => .next (probeOp a L q left s)
  | .probeNext a L q left => .next (probeNextOp a L q left s)
  | .sweep a L cur => .next (s.push [.scanStream a L cur, .sweepNext a L])
  | .sweepNext a L => .next (sweepNextOp a L s)

end Sys2Proof.Machine
end

