-- ==== Sys2Proof/Machine/FetchWord.lean ====
section
/-! DEFINITION. How an instruction word is placed so that the next step runs it: OPFD has no program counter (10_state R21),
so the placement sets the engine's position, the bytes there, or the host operation to come (log 14). -/
namespace Sys2Proof.Machine

/-- Write bytes to the decode's buffer from offset `i` on. -/
def placeBytes (s : State) : (i : Nat) → List Byte → State
  | _, [] => s
  | i, b :: bytes =>
    placeBytes { s with mem := Memory.write s.mem (bufAddr s.platform s.w.base i) b } (i + 1) bytes

/-- The engine at `st` with a TOC byte split and held, an FC byte, a cursor, and four bytes of buffer. -/
def placeAt (s : State) (st : EngineState) (toc fc : Byte) (off : Nat) : State :=
  { s with
    host := []
    w := { s.w with
      state := st, toc := toc, fields := tocSplit toc, lut := cfgLut (tocConfig toc), fc := fc
      off := BitVec.ofNat 24 off, len := 4#24, pad := 0#32, np := 0#24, k := 0#6, sum := 0#17 } }

/-- Place a `W16` window: the TOC is split, and the engine stands where its shape is read. -/
def placeShape (s : State) (bytes : List Byte) : State :=
  let toc := bytes.getD 0 0#8
  placeBytes (placeAt s (stateOfCode (tocCode toc)) toc 0#8 1) 0 (bytes ++ [0#8, 0#8])

/-- Place an encoded instruction. FL codes stand in a VBR header of two frames, PAD bytes in a padded CBR header. -/
def placeEncoded (s : State) : Encoded → State
  | .element .toc bytes => placeBytes (placeAt s .sToc 0#8 0#8 0) 0 bytes
  | .element .lut bytes => placeBytes (placeAt s .sToc 0#8 0#8 0) 0 bytes
  | .element .shape bytes => placeShape s bytes
  | .element .fl bytes => placeBytes (placeAt s .sVlen 3#8 0x82#8 2) 2 bytes
  | .element .pad bytes => placeBytes (placeAt s .sPad 3#8 0x41#8 2) 2 bytes
  | .csr a => { s with host := [.csr a] }

/-- Place the table's word of a row (30_encoding R104). -/
def placeTableWord (s : State) (nbits w : Nat) : State :=
  match tableEncoded nbits w with
  | some e => placeEncoded s e
  | none => s

end Sys2Proof.Machine
end

