-- ==== Sys2Proof/Machine/Step.lean ====
section
/-! DEFINITION. One step of the machine (70_reset_and_hazards R320): the next host operation, or, when none is to come, an
engine step. -/
namespace Sys2Proof.Machine

/-- One step. The host's list fixes how CSR accesses, engine steps and reset interleave (log 3). -/
def step (s : State) : Host.Outcome State Fault Refusal :=
  match s.host with
  | [] => engineStep s
  | op :: rest => hostStep op { s with host := rest }

/-- `s` with the table word placed so that the very next step runs it. -/
def State.withFetchWord (s : State) (nbits w : Nat) : State := placeTableWord s nbits w

end Sys2Proof.Machine
end

