-- ==== Sys2Proof/Safety.lean ====
section
/-! DEFINITION. The terms in which claims speak: what a completed decode leaves (42_packet_fsm R200; 60_exceptions R288), and
the invariants of the machine (10_state R29–R41; 42_packet_fsm R180, R206). -/
namespace Sys2Proof.Machine

/-! ## What a step leaves -/

/-- The result registers HDR, PKT, PAYLOAD_OFFSET, PADDING_SIZE, TOTAL_SIZE, FRAME_SIZE (10_state 2.4) are the same. -/
def SameResults (s t : State) : Prop :=
  t.csr.hdr = s.csr.hdr ∧ t.csr.pkt = s.csr.pkt ∧ t.csr.payloadOffset = s.csr.payloadOffset ∧
    t.csr.paddingSize = s.csr.paddingSize ∧ t.csr.totalSize = s.csr.totalSize ∧ t.csr.frameSize = s.csr.frameSize

/-- The boundary registers (10_state R40–R42) are the same. -/
def SameBoundary (s t : State) : Prop :=
  t.csr.bndMin = s.csr.bndMin ∧ t.csr.bndMax = s.csr.bndMax ∧ t.csr.bndSig = s.csr.bndSig ∧
    t.csr.bndTotal = s.csr.bndTotal

/-- CTRL and the buffer descriptor (10_state R24, R32, R33) are the same. -/
def SameDescriptor (s t : State) : Prop :=
  t.csr.lenExact = s.csr.lenExact ∧ t.csr.irqEn = s.csr.irqEn ∧ t.csr.bufBase = s.csr.bufBase ∧
    t.csr.bufLen = s.csr.bufLen

/-- Everything outside the block's registers is the same: every byte of memory, what the port last returned, the host
operations to come, the firmware's variables, the platform. -/
def SameOutside (s t : State) : Prop :=
  (∀ a, Memory.read t.mem a = Memory.read s.mem a) ∧ t.mem = s.mem ∧ t.rdata = s.rdata ∧ t.host = s.host ∧ t.fw = s.fw ∧
    t.platform = s.platform

/-- The registers hold packet `p` (R200), each number exactly. -/
def Holds (p : Packet) (t : State) : Prop :=
  t.csr.hdr = p.hdr ∧ t.csr.pkt.frameCount.toNat = p.res.frameCount ∧ t.csr.pkt.selfDelim = p.res.sd ∧
    t.csr.pkt.isCbr = p.res.isCbr ∧ t.csr.pkt.hasPadding = p.res.hasPadding ∧
    t.csr.payloadOffset.toNat = p.res.payloadOffset ∧ t.csr.paddingSize.toNat = p.res.paddingSize ∧
    t.csr.totalSize.toNat = p.res.total ∧
    ∀ k < 48, (FrameFile.at t.csr.frameSize k).toNat = if k < p.res.frameCount then p.res.frames.getD k 0 else 0

/-- `t` is `s` with the decode completed as the outcome says (00_scope R11; R200, R288; 43_boundary R224). -/
def Completes (v : Verdict) (s t : State) : Prop :=
  match v with
  | .done p =>
    t.visible = .done ∧ Holds p t ∧ t.csr.resultValid = true ∧ t.csr.unresolved = decide (p.res.total = 0) ∧
      t.csr.err = none ∧ t.csr.irqPend = true
  | .error e =>
    t.visible = .done ∧ SameResults s t ∧ t.csr.resultValid = s.csr.resultValid ∧
      t.csr.unresolved = s.csr.unresolved ∧ t.csr.err = some e ∧ t.csr.irqPend = true
  | .needBoundary c =>
    t.visible = .waitBnd ∧ SameResults s t ∧ t.csr.resultValid = s.csr.resultValid ∧
      t.csr.unresolved = s.csr.unresolved ∧ t.csr.err = s.csr.err ∧ t.csr.irqPend = true ∧
      t.w.hdr = c.hdr ∧ t.off = c.off ∧ t.pad = c.pad ∧ t.m = c.m ∧ t.pf = c.pf ∧ t.w.len = s.w.len

/-- The range registers after a decode: the range it reached (43_boundary R221), else what they were; `BND_TOTAL` stays. -/
def BoundaryAfter (c : Option BoundaryCtx) (s t : State) : Prop :=
  match c with
  | none => SameBoundary s t
  | some c =>
    t.csr.bndMin.toNat = rangeMin c.off c.pad c.m ∧ t.csr.bndMax.toNat = rangeMax c.off c.pad c.m ∧
      t.csr.bndSig = c.hdr.fc ++ c.hdr.toc ∧ t.csr.bndTotal = s.csr.bndTotal

/-- The CSR access a host operation makes, if it makes one. -/
def accessOf (p : Platform) : HostOp → Option CsrAccess
  | .csr a => some a
  | .store _ _ => none
  | .busWrite addr width data =>
    (windowOffset p addr).map fun offset => { write := true, offset := offset, width := width, data := data }
  | .busRead addr width =>
    (windowOffset p addr).map fun offset => { write := false, offset := offset, width := width, data := 0#32 }
  | .reset => none
  | .engine => none
  | .poll offset _ _ => some { write := false, offset := offset, width := .word, data := 0#32 }
  | .waitIrq => none
  | .fwSearch => none
  | .decodePacket _ _ => none
  | .fwAnswer => none
  | .fwLoad offset => some { write := false, offset := offset, width := .word, data := 0#32 }
  | .fwReturn => none
  | .fwFrames => none
  | .fwRecord => none
  | .scanStream _ _ _ => none
  | .scan _ _ => none
  | .scanNext _ _ => none
  | .probe _ _ _ _ => none
  | .probeNext _ _ _ _ => none
  | .sweep _ _ _ => none
  | .sweepNext _ _ => none

/-! ## Invariants -/

/-- The memory has its canonical form, the platform is legal (00_scope R7; 20_memory R80), and addresses fit `ADDR_W`
(10_state R32). -/
structure SpaceInv (s : State) : Prop where
  mem     : Memory.wf s.mem = true
  addrW   : s.platform.addrW ≤ 32
  csrBase : s.platform.csrBase.toNat % 0x200 = 0
  bufBase : s.csr.bufBase.toNat < 2 ^ s.platform.addrW
  base    : s.w.base.toNat < 2 ^ s.platform.addrW

/-- The header record agrees with the TOC byte (42_packet_fsm R162). -/
def HeaderHeld (s : State) : Prop := s.w.fields = tocSplit s.w.toc ∧ s.w.lut = cfgLut (tocConfig s.w.toc)

/-- Inside a code-3 packet with a legal frame count (R167), the header so far inside the buffer and its padding total
bounded by its bytes (41_vlc R145; 43_boundary R229). -/
structure Code3Held (s : State) : Prop where
  header  : HeaderHeld s
  code    : tocCode s.w.toc = 3#2
  mPos    : 1 ≤ s.m
  mMax    : s.m ≤ 48
  offMin  : 2 ≤ s.off
  offMax  : s.off ≤ s.len
  padMax  : s.pad ≤ 254 * (s.off - 2)
  padZero : s.pf = false → s.pad = 0

/-- The first `n` working frame sizes. -/
def firstSizes (s : State) (n : Nat) : List Nat := (s.w.sizes.toList.take n).map BitVec.toNat

/-- The explicit sizes so far are legal and `w.SUM` is their sum (10_state R57; 41_vlc R142). -/
def SizesHeld (s : State) (n : Nat) : Prop :=
  (∀ x ∈ firstSizes s n, x ≤ Config.frameMax) ∧ s.sum = (firstSizes s n).sum

/-- What holds of the working registers in each engine state (42_packet_fsm R180, R181). -/
def EngineInv (s : State) : Prop :=
  match s.w.state with
  | .sIdle => True
  | .sToc => True
  | .sSd => HeaderHeld s ∧ (tocCode s.w.toc = 0#2 ∨ tocCode s.w.toc = 1#2) ∧ s.w.fc = 0#8 ∧ 1 ≤ s.len
  | .sC2a => HeaderHeld s ∧ tocCode s.w.toc = 2#2 ∧ s.w.fc = 0#8 ∧ 1 ≤ s.len
  | .sC2b =>
    HeaderHeld s ∧ tocCode s.w.toc = 2#2 ∧ s.w.fc = 0#8 ∧ (s.w.n1 = 1#2 ∨ s.w.n1 = 2#2) ∧
      1 + s.w.n1.toNat ≤ s.len ∧ s.w.s1.toNat ≤ Config.frameMax
  | .sFc => HeaderHeld s ∧ tocCode s.w.toc = 3#2 ∧ 1 ≤ s.len
  | .sPad => Code3Held s ∧ s.pf = true ∧ s.off = 2 + s.w.np.toNat
  | .sVlen => Code3Held s ∧ s.v = true ∧ s.w.k.toNat + 2 ≤ s.m ∧ SizesHeld s s.w.k.toNat
  | .sVlast => Code3Held s ∧ s.v = true ∧ SizesHeld s (s.m - 1)
  | .sCbr => Code3Held s ∧ s.v = false
  | .sWaitBnd => Code3Held s ∧ s.v = false ∧ s.w.lx = false ∧ rangeMax s.off s.pad s.m < s.len
  | .sCfin => Code3Held s ∧ s.v = false ∧ s.w.t ≠ 0#32
  | .sDone => True

/-- The life cycle of `RESULT_VALID`, `UNRESOLVED` and `ERR` (10_state R31). -/
structure StatusInv (s : State) : Prop where
  running    : s.visible = .busy ∨ s.visible = .waitBnd →
                 s.csr.resultValid = false ∧ s.csr.unresolved = false ∧ s.csr.err = none
  unresolved : s.csr.unresolved = true → s.csr.resultValid = true
  err        : s.csr.err ≠ none → s.csr.resultValid = false

/-- The sum of the 48 FRAME_SIZE registers. -/
def frameTotal (f : FrameFile) : Nat := (f.toList.map BitVec.toNat).sum

/-- What the result registers always satisfy (10_state R34–R39; 42_packet_fsm R175, R206). -/
structure ResultInv (s : State) : Prop where
  frameMax    : ∀ k < 48, (FrameFile.at s.csr.frameSize k).toNat ≤ Config.frameMax
  beyondCount : ∀ k < 48, s.csr.pkt.frameCount.toNat ≤ k → FrameFile.at s.csr.frameSize k = 0#11
  countMax    : s.csr.pkt.frameCount.toNat ≤ Config.maxFrames
  sizes       : s.csr.totalSize ≠ 0#24 →
                  frameTotal s.csr.frameSize + s.csr.payloadOffset.toNat + s.csr.paddingSize.toNat = s.csr.totalSize.toNat
  unresolved  : s.csr.resultValid = true → (s.csr.unresolved = true ↔ s.csr.totalSize = 0#24)
  unknown     : s.csr.unresolved = true → ∀ k < 48, FrameFile.at s.csr.frameSize k = 0#11
  header      : s.csr.pkt.frameCount ≠ 0#6 →
                  s.csr.hdr = headerOf s.csr.hdr.toc s.csr.hdr.fc ∧
                    s.csr.pkt.frameCount.toNat = muxFrameCount (tocCode s.csr.hdr.toc) s.csr.hdr.fc
  plain       : s.csr.pkt.frameCount ≠ 0#6 → tocCode s.csr.hdr.toc ≠ 3#2 →
                  s.csr.pkt.isCbr = false ∧ s.csr.pkt.hasPadding = false ∧ s.csr.paddingSize = 0#32
  code3       : s.csr.pkt.frameCount ≠ 0#6 → tocCode s.csr.hdr.toc = 3#2 →
                  s.csr.pkt.selfDelim = false ∧ s.csr.pkt.isCbr = !fcV s.csr.hdr.fc ∧
                    s.csr.pkt.hasPadding = fcP s.csr.hdr.fc

end Sys2Proof.Machine
end

