-- ==== Sys2Proof/Certificates/Slice0/Obligations.lean ====
section
/-! DEFINITION. The statements for the provers. A docstring names the rules of spec/ a statement formalises, or the log entry
where it rests on a choice of the model. -/

open Sys2Proof Sys2Proof.Machine

/-! ## Encoding -/

/-- Decoding the words of any well-formed instruction gives it back, whatever its operands (30_encoding R91–R97, R105). -/
def Obligations.DecodeOfEncodeIsIdentity : Prop :=
  ∀ i : Instr, i.wf = true → decode (encode i) = .instr i []

/-- Whatever the decoder reads has operands in the ranges of its row (R94, R96, R99). -/
def Obligations.DecodedInstrIsWellFormed : Prop :=
  ∀ (e : Encoded) (i : Instr) (rest : List Byte), decode e = .instr i rest → i.wf = true

/-- For every TOC/FC pair the decoder picks the first matching `W16` row of the opcode table (R93, R99, R104). -/
def Obligations.WindowDecoderFollowsOpcodeTable : Prop :=
  ∀ toc fc : Byte, firstRow windowPatterns (toc.toNat * 256 + fc.toNat) = some (decodeWindow toc fc).row

/-- For every byte at an FL or PAD position, and every word written to CTRL, the decoder picks the first matching row of
the opcode table, and an FL code is two bytes exactly when `b0[7:2] = 111111` (R94, R96, R102, R104, R105). -/
def Obligations.CodeDecoderFollowsOpcodeTable : Prop :=
  (∀ (b0 b1 : Byte) (rest : List Byte), ∃ i,
      decode (.element .fl (b0 :: b1 :: rest)) = .instr i (if b0.extractLsb' 2 6 = 63#6 then rest else b1 :: rest) ∧
        firstRow flPatterns b0.toNat = some i.row) ∧
    (∀ (b : Byte) (rest : List Byte), ∃ i,
      decode (.element .pad (b :: rest)) = .instr i rest ∧ firstRow padPatterns b.toNat = some i.row) ∧
    (∀ d : Word, ∃ i, decode (csrWriteOf 0x000#9 d) = .instr i [] ∧ firstRow ctrlPatterns d.toNat = some i.row)

/-- Words written out from the spec's encodings: TOC 0x0B, FC 0xC3 after TOC 0x83, FL `[0xFD, 0x01]`, PAD 0xFF, the CTRL
words START with LEN_EXACT, RESUME and ABORT, and IRQ_ACK (40_toc_config R120; 41_vlc R140; 95_test_vectors 3). -/
def Obligations.SampleWordsDecode : Prop :=
  decode (.element .toc [0x0B#8]) = .instr (.tocSplit 1#5 false 3#2) [] ∧
    decode (.element .shape [0x83#8, 0xC3#8]) = .instr (.pktC3Vbr 16#5 false true 3#6) [] ∧
    decode (.element .fl [0xFD#8, 0x01#8]) = .instr (.fl2b 0xFD#8 0x01#8) [] ∧
    decode (.element .pad [0xFF#8, 0x05#8]) = .instr .padCont [0x05#8] ∧
    decode (csrWriteOf 0x000#9 0x00000101#32) = .instr (.cmdStart false true false) [] ∧
    decode (csrWriteOf 0x000#9 0x00000002#32) = .instr (.cmdResume false false) [] ∧
    decode (csrWriteOf 0x000#9 0x00000307#32) = .instr (.cmdAbort true true) [] ∧
    decode (csrWriteOf 0x004#9 0x00010000#32) = .instr .cmdIrqAck []

/-! ## The variable-length codes -/

/-- FLDEC (41_vlc R140), with the bus error a read may answer (20_memory R89). -/
def Obligations.FrameLengthDecoder : Prop :=
  ∀ (L : Nat) (B : Nat → Option Byte) (i : Nat),
    (L ≤ i → fldec L B i = .insufficient) ∧
    (i < L → B i = none → fldec L B i = .busError) ∧
    (∀ b0, i < L → B i = some b0 → b0.toNat ≤ 251 → fldec L B i = .ok b0.toNat 1) ∧
    (∀ b0, i < L → B i = some b0 → 252 ≤ b0.toNat → L ≤ i + 1 → fldec L B i = .insufficient) ∧
    (∀ b0, i + 1 < L → B i = some b0 → 252 ≤ b0.toNat → B (i + 1) = none → fldec L B i = .busError) ∧
    (∀ b0 b1, i + 1 < L → B i = some b0 → 252 ≤ b0.toNat → B (i + 1) = some b1 →
      fldec L B i = .ok (4 * b1.toNat + b0.toNat) 2)

/-- The range facts (a)–(d) of R142: a size is at most 1275, one byte exactly when at most 251, `n + size ≤ 1277`, and the
first byte alone fixes `n`. -/
def Obligations.FrameLengthRange : Prop :=
  (∀ (L : Nat) (B : Nat → Option Byte) (i size n : Nat), fldec L B i = .ok size n →
      size ≤ 1275 ∧ (n = 1 ↔ size ≤ 251) ∧ n + size ≤ 1277 ∧ (n = 1 ∨ n = 2)) ∧
    (∀ (L L' : Nat) (B B' : Nat → Option Byte) (i i' size size' n n' : Nat), B i = B' i' →
      fldec L B i = .ok size n → fldec L' B' i' = .ok size' n' → n = n')

/-- FLENC is the encoder of R146, and FLDEC reads what it wrote, whatever follows. -/
def Obligations.FrameLengthRoundTrip : Prop :=
  ∀ (s : Nat) (tail : List Byte), s ≤ 1275 →
    fldec (flenc s ++ tail).length (listBuffer (flenc s ++ tail)) 0 = .ok s (flenc s).length ∧
      (s ≤ 251 → flenc s = [BitVec.ofNat 8 s]) ∧
      (252 ≤ s → ∃ b0 b1 : Byte, flenc s = [b0, b1] ∧ b0.toNat = 252 + s % 4 ∧ b1.toNat = (s - b0.toNat) / 4)

/-- PADDEC (R143): a run of `n` bytes 255 and a last byte below 255 give `254*n + last`; a run that reaches the end of the
buffer, or is empty there, is InsufficientData; a bus error ends it (20_memory R89). -/
def Obligations.PaddingDecoder : Prop :=
  ∀ (L : Nat) (B : Nat → Option Byte) (i n : Nat), (∀ j < n, i + j < L ∧ B (i + j) = some 255#8) →
    (∀ b, i + n < L → B (i + n) = some b → b ≠ 255#8 → paddec L B i = .ok (254 * n + b.toNat) (n + 1)) ∧
    (L ≤ i + n → paddec L B i = .insufficient) ∧
    (i + n < L → B (i + n) = none → paddec L B i = .busError)

/-- A PAD code lies in the buffer, and its total is bounded by its bytes, so 32 bits hold it (R145). -/
def Obligations.PaddingTotalBound : Prop :=
  ∀ (L : Nat) (B : Nat → Option Byte) (i total n : Nat), paddec L B i = .ok total n →
    1 ≤ n ∧ i + n ≤ L ∧ total ≤ 254 * n ∧ (2 ≤ i → L < 2 ^ 24 → n ≤ L - 2 ∧ total ≤ 254 * (L - 2) ∧ total < 2 ^ 32)

/-- PADENC is the encoder of R147, with the three encodings the source names, and PADDEC reads what it wrote, whatever
follows. -/
def Obligations.PaddingRoundTrip : Prop :=
  (∀ (p : Nat) (tail : List Byte),
      paddec (padenc p ++ tail).length (listBuffer (padenc p ++ tail)) 0 = .ok p (padenc p).length) ∧
    (∀ p, p % 254 = 0 → 0 < p / 254 → padenc p = List.replicate (p / 254 - 1) 255#8 ++ [254#8]) ∧
    (∀ p, ¬ (p % 254 = 0 ∧ 0 < p / 254) → padenc p = List.replicate (p / 254) 255#8 ++ [BitVec.ofNat 8 (p % 254)]) ∧
    padenc 0 = [0#8] ∧ padenc 254 = [254#8] ∧ padenc 255 = [255#8, 1#8]

/-- The combinational FL decoder (R141) and the one-byte PAD step (R144) compute what FLDEC and the PAD rows do; the second
byte does not matter when the first does not ask for it. -/
def Obligations.SubBlocksComputeTheCodes : Prop :=
  (∀ (L : Nat) (B : Nat → Option Byte) (i : Nat) (b0 b1 : Byte) (o : FlPorts),
      (i < L → B i = some b0) → (252 ≤ b0.toNat → i + 1 < L → B (i + 1) = some b1) →
      o = flDecoder b0 (decide (i < L)) b1 (decide (i + 1 < L)) →
      fldec L B i = if o.insufficient then .insufficient else .ok o.size.toNat o.nbytes.toNat) ∧
    (∀ (b : Byte) (acc : Word) (s : State), s.w.pad = acc →
      (padDecoderStep b true acc).insufficient = false ∧ (padDecoderStep b false acc).insufficient = true ∧
      (padDecoderStep b false acc).done = false ∧
      (b = 255#8 → (padDecoderStep b true acc).done = false ∧
        ∃ t, exec .padCont s = .next t ∧ t.w.pad = (padDecoderStep b true acc).acc) ∧
      (b ≠ 255#8 → (padDecoderStep b true acc).done = true ∧
        ∃ t, exec (.padTerm b) s = .next t ∧ t.w.pad = (padDecoderStep b true acc).acc))

/-! ## The rows of the bitstream -/

/-- TOC_SPLIT (40_toc_config R120): `config = toc[7:3]`, `stereo = toc[2]`, `code = toc[1:0]`, for all 256 bytes; with the
writes of the TOC step (42_packet_fsm R160, R162): `w.TOC`, `w.FC`, `w.OFF`, and the next `w.STATE` (R181). That the outputs are
held in registers is the model's reading (log 10). Nothing else changes. -/
def Obligations.TocSplitRow : Prop :=
  ∀ (b : Byte) (s : State), ∃ config stereo code,
    decode (.element .toc [b]) = .instr (.tocSplit config stereo code) [] ∧
    config.toNat = b.toNat / 8 ∧ stereo = decide (b.toNat / 4 % 2 = 1) ∧ code.toNat = b.toNat % 4 ∧
    exec (.tocSplit config stereo code) s =
      .next { s with w := { s.w with
        toc := b, fc := 0#8, off := 1#24
        fields := { config := config, stereo := stereo, code := code }
        state := if b.toNat % 4 ≤ 1 then .sSd else if b.toNat % 4 = 2 then .sC2a else .sFc } }

/-- CFG_LUT (R122) gives the closed form of R123 in the numbers of R124, and nothing else changes. The table's rows other
than config 0 are the spec's general knowledge (log 17); that the outputs are held in registers is the model's reading (log 10). -/
def Obligations.ConfigLutRow : Prop :=
  ∀ (config : BitVec 5) (s : State), ∃ row,
    exec (.cfgLut config) s = .next { s with w := { s.w with lut := row } } ∧
    (config.toNat ≤ 11 →
      row.mode.code = 0 ∧ row.bw.code = config.toNat / 4 ∧ row.dur.code = 2 + config.toNat % 4) ∧
    (12 ≤ config.toNat → config.toNat ≤ 15 →
      row.mode.code = 1 ∧ row.bw.code = 3 + config.toNat / 2 % 2 ∧ row.dur.code = 2 + config.toNat % 2) ∧
    (16 ≤ config.toNat →
      row.mode.code = 2 ∧ row.bw.code = [0, 2, 3, 4].getD (config.toNat / 4 % 4) 0 ∧ row.dur.code = config.toNat % 4)

/-- The size and byte count of FL_ZERO, FL_1B and FL_2B (R140). Outside `S_VLEN`, where no step runs these rows, the meaning
stores them in `w.FLS` and `w.FLN` and changes nothing else: the model's choice (log 18). -/
def Obligations.FrameLengthRowsLatch : Prop :=
  ∀ (b0 b1 : Byte) (s : State), s.w.state ≠ .sVlen →
    exec .flZero s = .next { s with w := { s.w with fls := 0#11, fln := 1#2 } } ∧
    exec (.fl1b b0) s = .next { s with w := { s.w with fls := BitVec.ofNat 11 b0.toNat, fln := 1#2 } } ∧
    exec (.fl2b b0 b1) s =
      .next { s with w := { s.w with fls := BitVec.ofNat 11 (4 * b1.toNat + b0.toNat), fln := 2#2 } }

/-- FL_ZERO, FL_1B and FL_2B in `S_VLEN` (42_packet_fsm R169, R181): the size goes to `w.S[w.K]` and into `w.SUM`, the cursor
moves past the code, and the loop goes on while `w.K < M - 2`; nothing else changes. That `w.K` stays at the last index when the
loop ends, and that `w.FLS` and `w.FLN` keep the code, is the model's reading (log 9). -/
def Obligations.FrameLengthRowsInVbrLoop : Prop :=
  ∀ (i : Instr) (size n : Nat) (s : State), s.w.state = .sVlen →
    (i = .flZero ∧ size = 0 ∧ n = 1 ∨ (∃ b0, i = .fl1b b0 ∧ size = b0.toNat ∧ n = 1) ∨
      ∃ b0 b1, i = .fl2b b0 b1 ∧ size = 4 * b1.toNat + b0.toNat ∧ n = 2) →
    exec i s = .next { s with w := { s.w with
      fls := BitVec.ofNat 11 size, fln := BitVec.ofNat 2 n
      sizes := s.w.sizes.setIfInBounds s.w.k.toNat (BitVec.ofNat 11 size)
      sum := BitVec.ofNat 17 (s.w.sum.toNat + size)
      off := BitVec.ofNat 24 (s.w.off.toNat + n)
      k := if s.w.k.toNat + 2 < s.m then BitVec.ofNat 6 (s.w.k.toNat + 1) else s.w.k
      state := if s.w.k.toNat + 2 < s.m then .sVlen else .sVlast } }

/-- PAD_CONT contributes 254 and the run goes on; PAD_TERM contributes its value, ends the run, and sets
`w.OFF <- 2 + w.NP` and the next state (R143; 42_packet_fsm R168, R181). The cursor inside a run is the model's reading
(log 9). Nothing else changes. -/
def Obligations.PaddingRows : Prop :=
  ∀ (b : Byte) (s : State),
    exec .padCont s = .next { s with w := { s.w with
      pad := BitVec.ofNat 32 (s.w.pad.toNat + 254), np := BitVec.ofNat 24 (s.w.np.toNat + 1)
      off := BitVec.ofNat 24 (s.w.off.toNat + 1) } } ∧
    exec (.padTerm b) s = .next { s with w := { s.w with
      pad := BitVec.ofNat 32 (s.w.pad.toNat + b.toNat), np := BitVec.ofNat 24 (s.w.np.toNat + 1)
      off := BitVec.ofNat 24 (2 + (BitVec.ofNat 24 (s.w.np.toNat + 1)).toNat)
      sum := if s.v then 0#17 else s.w.sum
      k := if s.v then 0#6 else s.w.k
      state := if s.v then (if 2 ≤ s.m then .sVlen else .sVlast) else .sCbr } }

/-- PKT_C0 (R164): the TOC alone; the attempt that fits; else the implicit frame, or InvalidFrameSize; every commit has
`fc_byte = 0`. A bus error ends it (20_memory R89). Where the cursor stands at the commit is the model's reading (log 9). -/
def Obligations.SingleFrameRow : Prop :=
  ∀ (config : BitVec 5) (stereo : Bool) (s : State), 1 ≤ s.len →
    (s.len = 1 → exec (.pktC0 config stereo) s = .next (commit
      { frameCount := 1, frames := [0], payloadOffset := 1, total := 1, sd := false
        isCbr := false, hasPadding := false, paddingSize := 0 } (s.moveTo 1))) ∧
    (∀ size n, s.len ≠ 1 → fldec s.len s.B 1 = .ok size n → 1 + n + size ≤ s.len →
      exec (.pktC0 config stereo) s = .next (commit
        { frameCount := 1, frames := [size], payloadOffset := 1 + n, total := 1 + n + size, sd := true
          isCbr := false, hasPadding := false, paddingSize := 0 } ((s.latchFl size n).moveTo (1 + n)))) ∧
    (s.len ≠ 1 → fldec s.len s.B 1 ≠ .busError → (∀ size n, fldec s.len s.B 1 = .ok size n → s.len < 1 + n + size) →
      (s.len - 1 ≤ 1275 → exec (.pktC0 config stereo) s = .next (commit
        { frameCount := 1, frames := [s.len - 1], payloadOffset := 1, total := s.len, sd := false
          isCbr := false, hasPadding := false, paddingSize := 0 }
        ((s.latchVerdict (fldec s.len s.B 1)).moveTo 1))) ∧
      (1275 < s.len - 1 → exec (.pktC0 config stereo) s =
        .next (raiseError .invalidFrameSize (s.latchVerdict (fldec s.len s.B 1))))) ∧
    (s.len ≠ 1 → fldec s.len s.B 1 = .busError → exec (.pktC0 config stereo) s = .next (raiseError .busError s)) ∧
    (∀ t, s.w.fields.code = 0#2 → exec (.pktC0 config stereo) s = .next t → t.csr.err = none → t.csr.hdr.fc = 0#8)

/-- PKT_C1 (R165): the attempt that fits; else the even split, or InvalidFrameSize for an odd remainder; every commit has
`fc_byte = 0`. That half of the remainder never exceeds 1275 is R176(b). The cursor at the commit: log 9. -/
def Obligations.TwoEqualFramesRow : Prop :=
  ∀ (config : BitVec 5) (stereo : Bool) (s : State), 1 ≤ s.len →
    (∀ size n, fldec s.len s.B 1 = .ok size n → 1 + n + 2 * size ≤ s.len →
      exec (.pktC1 config stereo) s = .next (commit
        { frameCount := 2, frames := [size, size], payloadOffset := 1 + n, total := 1 + n + 2 * size, sd := true
          isCbr := false, hasPadding := false, paddingSize := 0 } ((s.latchFl size n).moveTo (1 + n)))) ∧
    (fldec s.len s.B 1 ≠ .busError → (∀ size n, fldec s.len s.B 1 = .ok size n → s.len < 1 + n + 2 * size) →
      ((s.len - 1) % 2 = 0 → exec (.pktC1 config stereo) s = .next (commit
        { frameCount := 2, frames := [(s.len - 1) / 2, (s.len - 1) / 2], payloadOffset := 1, total := s.len, sd := false
          isCbr := false, hasPadding := false, paddingSize := 0 }
        ((s.latchVerdict (fldec s.len s.B 1)).moveTo 1))) ∧
      ((s.len - 1) % 2 = 1 → exec (.pktC1 config stereo) s =
        .next (raiseError .invalidFrameSize (s.latchVerdict (fldec s.len s.B 1))))) ∧
    (fldec s.len s.B 1 = .busError → exec (.pktC1 config stereo) s = .next (raiseError .busError s)) ∧
    (∀ t, s.w.fields.code = 1#2 → exec (.pktC1 config stereo) s = .next t → t.csr.err = none → t.csr.hdr.fc = 0#8)

/-- PKT_C2 (R166): frame 1's code in `S_C2A`; then, in `S_C2B`, the attempt for frame 2, or frame 2 implicit, or
InvalidFrameSize; every commit has `fc_byte = 0`. The cursor at the commit: log 9. -/
def Obligations.TwoSizedFramesRow : Prop :=
  ∀ (config : BitVec 5) (stereo : Bool) (s : State),
    (s.w.state = .sC2a →
      (fldec s.len s.B 1 = .insufficient → exec (.pktC2 config stereo) s = .next (raiseError .insufficientData s)) ∧
      (fldec s.len s.B 1 = .busError → exec (.pktC2 config stereo) s = .next (raiseError .busError s)) ∧
      (∀ s1 n1, fldec s.len s.B 1 = .ok s1 n1 → exec (.pktC2 config stereo) s = .next { s with w := { s.w with
        fls := BitVec.ofNat 11 s1, fln := BitVec.ofNat 2 n1, s1 := BitVec.ofNat 11 s1, n1 := BitVec.ofNat 2 n1
        off := BitVec.ofNat 24 (1 + n1), state := .sC2b } })) ∧
    (∀ s1 n1, s.w.state = .sC2b → s1 = s.w.s1.toNat → n1 = s.w.n1.toNat →
      (∀ s2 n2, fldec s.len s.B (1 + n1) = .ok s2 n2 → 1 + n1 + n2 + s1 + s2 ≤ s.len →
        exec (.pktC2 config stereo) s = .next (commit
          { frameCount := 2, frames := [s1, s2], payloadOffset := 1 + n1 + n2, total := 1 + n1 + n2 + s1 + s2
            sd := true, isCbr := false, hasPadding := false, paddingSize := 0 }
          ((s.latchFl s2 n2).moveTo (1 + n1 + n2)))) ∧
      (fldec s.len s.B (1 + n1) ≠ .busError →
        (∀ s2 n2, fldec s.len s.B (1 + n1) = .ok s2 n2 → s.len < 1 + n1 + n2 + s1 + s2) →
        (s1 ≤ 1275 → 1 + n1 + s1 ≤ s.len → s.len - 1 - n1 - s1 ≤ 1275 →
          exec (.pktC2 config stereo) s = .next (commit
            { frameCount := 2, frames := [s1, s.len - 1 - n1 - s1], payloadOffset := 1 + n1, total := s.len, sd := false
              isCbr := false, hasPadding := false, paddingSize := 0 }
            ((s.latchVerdict (fldec s.len s.B (1 + n1))).moveTo (1 + n1)))) ∧
        (1275 < s1 ∨ s.len < 1 + n1 + s1 ∨ 1275 < s.len - 1 - n1 - s1 →
          exec (.pktC2 config stereo) s =
            .next (raiseError .invalidFrameSize (s.latchVerdict (fldec s.len s.B (1 + n1)))))) ∧
      (fldec s.len s.B (1 + n1) = .busError → exec (.pktC2 config stereo) s = .next (raiseError .busError s)) ∧
      (∀ t, s.w.fields.code = 2#2 → exec (.pktC2 config stereo) s = .next t → t.csr.err = none → t.csr.hdr.fc = 0#8))

/-- The illegal code-3 rows (R99, R167; 60_exceptions R283): the FC byte is latched and the decode ends in InvalidHeader. -/
def Obligations.IllegalFrameCountRows : Prop :=
  ∀ (config : BitVec 5) (stereo v p : Bool) (m : BitVec 6) (s : State) (i : Instr),
    (i = .pktC3M0 config stereo v p ∧ m = 0#6 ∨ i = .pktC3Mbig49 config stereo v p ∧ m = 49#6 ∨
      i = .pktC3Mbig50to51 config stereo v p m ∨ i = .pktC3Mbig52to55 config stereo v p m ∨
      i = .pktC3Mbig56to63 config stereo v p m) →
    exec i s = .next (raiseError .invalidHeader { s with w := { s.w with fc := fcByte v p m, off := 2#24 } })

/-- The legal code-3 rows at the FC byte (R167, R168, R181): the byte is latched, `w.OFF <- 2`, `w.PAD <- 0`, and the next
state is the padding code, the sizes, the last frame, or the CBR dispatch. -/
def Obligations.Code3HeaderRows : Prop :=
  ∀ (config : BitVec 5) (stereo p : Bool) (m : BitVec 6) (s : State), s.w.state = .sFc →
    exec (.pktC3Vbr config stereo p m) s = .next { s with w := { s.w with
      fc := fcByte true p m, off := 2#24, pad := 0#32, np := 0#24
      sum := if p then s.w.sum else 0#17
      k := if p then s.w.k else 0#6
      state := if p then .sPad else if 2 ≤ m.toNat then .sVlen else .sVlast } } ∧
    exec (.pktC3Cbr config stereo p m) s = .next { s with w := { s.w with
      fc := fcByte false p m, off := 2#24, pad := 0#32, np := 0#24
      state := if p then .sPad else .sCbr } }

/-- PKT_C3_VBR's last frame (R169): what the buffer leaves after header, padding and explicit sizes. -/
def Obligations.VbrLastFrameRow : Prop :=
  ∀ (config : BitVec 5) (stereo p : Bool) (m : BitVec 6) (s : State) (last : Nat), s.w.state = .sVlast →
    last = s.len - s.off - s.pad - s.sum →
    (s.len < s.off + s.pad + s.sum →
      exec (.pktC3Vbr config stereo p m) s = .next (raiseError .invalidFrameSize s)) ∧
    (1275 < last → exec (.pktC3Vbr config stereo p m) s = .next (raiseError .invalidFrameSize s)) ∧
    (s.off + s.pad + s.sum ≤ s.len → last ≤ 1275 → exec (.pktC3Vbr config stereo p m) s = .next (commit
      { frameCount := s.m, frames := (s.w.sizes.toList.take (s.m - 1)).map BitVec.toNat ++ [last]
        payloadOffset := s.off, total := s.len, sd := false, isCbr := false, hasPadding := s.pf, paddingSize := s.pad }
      { s with w := { s.w with sizes := s.w.sizes.setIfInBounds (s.m - 1) (BitVec.ofNat 11 last) } }))

/-- PKT_C3_CBR's dispatch (R170; 43_boundary R221–R225, R228): with the length known exact, on to the split; else the range is
published with the verdict: below it the unresolved record, above it WAIT_BND, inside it CBR_FINISH(w.L) (R171) in the same step
(R182; log 8). -/
def Obligations.CbrDispatchRow : Prop :=
  ∀ (config : BitVec 5) (stereo p : Bool) (m : BitVec 6) (s r : State) (lo hi : Nat), s.w.state = .sCbr →
    lo = s.off + 10 * s.m + s.pad → hi = s.off + 1275 * s.m + s.pad → hi < 2 ^ 32 →
    r = { s with
      csr := { s.csr with bndMin := BitVec.ofNat 32 lo, bndMax := BitVec.ofNat 32 hi, bndSig := s.w.fc ++ s.w.toc }
      w := { s.w with bmin := BitVec.ofNat 32 lo, bmax := BitVec.ofNat 32 hi } } →
    (s.w.lx = true → exec (.pktC3Cbr config stereo p m) s =
      .next { s with w := { s.w with t := BitVec.ofNat 32 s.len, state := .sCfin } }) ∧
    (s.w.lx = false → s.len < lo → exec (.pktC3Cbr config stereo p m) s = .next (commit
      { frameCount := s.m, frames := List.replicate s.m 0, payloadOffset := s.off, total := 0, sd := false
        isCbr := true, hasPadding := s.pf, paddingSize := s.pad } r)) ∧
    (∀ q U, q = { r with w := { r.w with t := BitVec.ofNat 32 s.len, state := .sCfin } } → U = s.len - s.off - s.pad →
      s.w.lx = false → lo ≤ s.len → s.len ≤ hi →
      (U % s.m = 0 → exec (.pktC3Cbr config stereo p m) s = .next (commit
        { frameCount := s.m, frames := List.replicate s.m (U / s.m), payloadOffset := s.off, total := s.len, sd := false
          isCbr := true, hasPadding := s.pf, paddingSize := s.pad } q)) ∧
      (U % s.m ≠ 0 → exec (.pktC3Cbr config stereo p m) s = .next (raiseError .invalidFrameSize q))) ∧
    (s.w.lx = false → hi < s.len → exec (.pktC3Cbr config stereo p m) s =
      .next { r with csr := { r.csr with irqPend := true }, w := { r.w with state := .sWaitBnd } })

/-- PKT_C3_CBR's split, CBR_FINISH(T) (R171), with its checks in order. -/
def Obligations.CbrSplitRow : Prop :=
  ∀ (config : BitVec 5) (stereo p : Bool) (m : BitVec 6) (s : State) (T U : Nat), s.w.state = .sCfin →
    T = s.w.t.toNat → U = T - s.off - s.pad →
    (s.len < T → exec (.pktC3Cbr config stereo p m) s = .next (raiseError .insufficientData s)) ∧
    (T ≤ s.len → T < s.off + s.pad → exec (.pktC3Cbr config stereo p m) s = .next (raiseError .invalidFrameSize s)) ∧
    (T ≤ s.len → s.off + s.pad ≤ T → U % s.m ≠ 0 →
      exec (.pktC3Cbr config stereo p m) s = .next (raiseError .invalidFrameSize s)) ∧
    (T ≤ s.len → s.off + s.pad ≤ T → U % s.m = 0 → 1275 < U / s.m →
      exec (.pktC3Cbr config stereo p m) s = .next (raiseError .invalidFrameSize s)) ∧
    (T ≤ s.len → s.off + s.pad ≤ T → U % s.m = 0 → U / s.m ≤ 1275 →
      exec (.pktC3Cbr config stereo p m) s = .next (commit
        { frameCount := s.m, frames := List.replicate s.m (U / s.m), payloadOffset := s.off, total := T, sd := false
          isCbr := true, hasPadding := s.pf, paddingSize := s.pad } s))

/-! ## How a decode ends -/

/-- `commit(r)` (R200) as the host reads it: every result register, the completion flags, `IRQ_PEND`; the other registers,
the working registers but `w.STATE`, and everything outside the block stay. `HeaderHeld`, a part of the invariant `EngineInv`,
says that the held outputs are those of the TOC byte. -/
def Obligations.CommitWritesTheResult : Prop :=
  ∀ (r : Result) (s : State), r.frameCount ≤ 48 → r.payloadOffset < 2 ^ 24 → r.total < 2 ^ 24 → r.paddingSize < 2 ^ 32 →
    (∀ x ∈ r.frames, x ≤ 1275) →
    (∀ config lut, HeaderHeld s → config = tocConfig s.w.toc → lut = cfgLut config → (commit r s).csrRead 0x010 =
      (s.w.toc.setWidth 32 ||| config.setWidth 32 <<< 8 ||| (BitVec.ofBool (tocStereo s.w.toc)).setWidth 32 <<< 13
        ||| (tocCode s.w.toc).setWidth 32 <<< 14 ||| BitVec.ofNat 32 lut.mode.code <<< 16
        ||| BitVec.ofNat 32 lut.bw.code <<< 18 ||| BitVec.ofNat 32 lut.dur.code <<< 21
        ||| (if tocCode s.w.toc = 3#2 then s.w.fc else 0#8).setWidth 32 <<< 24)) ∧
    (commit r s).csrRead 0x014 =
      (BitVec.ofNat 32 r.frameCount ||| (BitVec.ofBool r.sd).setWidth 32 <<< 8
        ||| (BitVec.ofBool r.isCbr).setWidth 32 <<< 9 ||| (BitVec.ofBool r.hasPadding).setWidth 32 <<< 10) ∧
    ((commit r s).csrRead 0x018).toNat = r.payloadOffset ∧ ((commit r s).csrRead 0x01C).toNat = r.paddingSize ∧
    ((commit r s).csrRead 0x020).toNat = r.total ∧
    (∀ k < 48, ((commit r s).csrRead (0x100 + 4 * k)).toNat = if k < r.frameCount then r.frames.getD k 0 else 0) ∧
    ((commit r s).csrRead 0x004).toNat = 0x10013 + (if r.total = 0 then 32 else 0) ∧
    SameDescriptor s (commit r s) ∧ SameBoundary s (commit r s) ∧ SameOutside s (commit r s) ∧
    (commit r s).w = { s.w with state := .sDone }

/-- `error(E)` (60_exceptions R288): STATUS shows DONE, the code and `IRQ_PEND`; every other register reads as before. -/
def Obligations.ErrorWritesStatusAlone : Prop :=
  ∀ (e : ErrKind) (s : State),
    ((raiseError e s).csrRead 0x004).toNat =
      0x10003 + 16 * s.csr.resultValid.toNat + 32 * s.csr.unresolved.toNat
        + 256 * (match e with
          | .insufficientData => 1
          | .invalidHeader => 2
          | .invalidFrameSize => 3
          | .busError => 4) ∧
    (∀ o, o ≠ 0x004 → (raiseError e s).csrRead o = s.csrRead o) ∧ SameOutside s (raiseError e s) ∧
    (raiseError e s).w = { s.w with state := .sDone }

/-! ## Commands -/

/-- START (44_host_interface R251): a CTRL write with bit 0 = 1 and bit 2 = 0. In IDLE or DONE the inputs are latched, the
flags, cursor and `BND_*` registers cleared, and BUSY entered; in BUSY, and in WAIT_BND where bit 1 asks for no RESUME, nothing
but the CTRL bits changes. `IRQ_PEND`, the result registers and everything outside stay. -/
def Obligations.StartCommand : Prop :=
  (∀ d : Word, d.getLsbD 0 = true → d.getLsbD 2 = false →
      decode (csrWriteOf 0x000#9 d) = .instr (.cmdStart (d.getLsbD 1) (d.getLsbD 8) (d.getLsbD 9)) []) ∧
  ∀ (resumeBit lenExact irqEn : Bool) (s : State),
    (s.w.state = .sIdle ∨ s.w.state = .sDone → exec (.cmdStart resumeBit lenExact irqEn) s =
      .next { s with
        csr := { s.csr with
          lenExact := lenExact, irqEn := irqEn, resultValid := false, unresolved := false, err := none
          bndMin := 0#32, bndMax := 0#32, bndSig := 0#16, bndTotal := 0#32 }
        w := { s.w with
          base := BitVec.ofNat 32 (s.csr.bufBase.toNat % 2 ^ s.platform.addrW), len := s.csr.bufLen, lx := lenExact
          off := 0#24, pad := 0#32, sum := 0#17, k := 0#6, state := .sToc } }) ∧
    (s.visible = .busy ∨ s.visible = .waitBnd ∧ resumeBit = false → exec (.cmdStart resumeBit lenExact irqEn) s =
      .next { s with csr := { s.csr with lenExact := lenExact, irqEn := irqEn } })

/-- RESUME (43_boundary R226): in WAIT_BND `BND_TOTAL` is read once; 0 commits the unresolved record of R228, any other
value goes to the split, which the next engine step makes; outside WAIT_BND only the CTRL bits change. That the unresolved
record is committed in the step of the CSR write itself is the model's reading (log 19). -/
def Obligations.ResumeCommand : Prop :=
  ∀ (lenExact irqEn : Bool) (s c : State), c = { s with csr := { s.csr with lenExact := lenExact, irqEn := irqEn } } →
    (s.w.state ≠ .sWaitBnd → exec (.cmdResume lenExact irqEn) s = .next c) ∧
    (s.w.state = .sWaitBnd → s.csr.bndTotal = 0#32 → exec (.cmdResume lenExact irqEn) s = .next (commit
      { frameCount := s.m, frames := List.replicate s.m 0, payloadOffset := s.off, total := 0, sd := false
        isCbr := true, hasPadding := s.pf, paddingSize := s.pad } { c with w := { c.w with t := 0#32 } })) ∧
    (s.w.state = .sWaitBnd → s.csr.bndTotal ≠ 0#32 → exec (.cmdResume lenExact irqEn) s =
      .next { c with w := { c.w with t := s.csr.bndTotal, state := .sCfin } })

/-- ABORT (44_host_interface R253): a CTRL write with bit 2 = 1, whatever bits 0 and 1. IDLE in any state; every result, flag
and `BND_*` register stays. -/
def Obligations.AbortCommand : Prop :=
  (∀ d : Word, d.getLsbD 2 = true →
      decode (csrWriteOf 0x000#9 d) = .instr (.cmdAbort (d.getLsbD 8) (d.getLsbD 9)) []) ∧
  ∀ (lenExact irqEn : Bool) (s : State), exec (.cmdAbort lenExact irqEn) s =
    .next { s with
      csr := { s.csr with lenExact := lenExact, irqEn := irqEn }
      w := { s.w with state := .sIdle } }

/-- The priority of the command bits of one CTRL write, for every word and state (R254, R250; 10_state R25). -/
def Obligations.CtrlWritePriority : Prop :=
  ∀ (d : Word) (s : State) (le ie : Bool), le = d.getLsbD 8 → ie = d.getLsbD 9 →
    ∃ i, decode (csrWriteOf 0x000#9 d) = .instr i [] ∧
      (d.getLsbD 2 = true → exec i s = exec (.cmdAbort le ie) s) ∧
      (d.getLsbD 2 = false → d.getLsbD 0 = true → s.w.state = .sIdle ∨ s.w.state = .sDone →
        exec i s = exec (.cmdStart false le ie) s) ∧
      (d.getLsbD 2 = false → d.getLsbD 1 = true → s.w.state = .sWaitBnd →
        exec i s = exec (.cmdResume le ie) s) ∧
      (d.getLsbD 2 = false → d.getLsbD 0 = false ∨ s.w.state ≠ .sIdle ∧ s.w.state ≠ .sDone →
        d.getLsbD 1 = false ∨ s.w.state ≠ .sWaitBnd →
        exec i s = .next { s with csr := { s.csr with lenExact := le, irqEn := ie } })

/-- The configuration writes (R256), in every engine state: each stores its masked word and changes nothing else. -/
def Obligations.ConfigurationWrites : Prop :=
  ∀ (lenExact irqEn : Bool) (d : Word) (s : State),
    exec (.wrCtrlCfg lenExact irqEn) s = .next { s with csr := { s.csr with lenExact := lenExact, irqEn := irqEn } } ∧
    exec (.wrBufBase d) s =
      .next { s with csr := { s.csr with bufBase := d &&& BitVec.ofNat 32 (2 ^ s.platform.addrW - 1) } } ∧
    (∃ t, exec (.wrBufLen d) s = .next t ∧ t = { s with csr := { s.csr with bufLen := t.csr.bufLen } } ∧
      t.csrRead 0x00C = d &&& 0x00FFFFFF#32) ∧
    exec (.wrBndTotal d) s = .next { s with csr := { s.csr with bndTotal := d } }

/-- IRQ_ACK (R255): `IRQ_PEND` and with it `irq` are cleared, nothing else changes; a STATUS write with bit 16 clear does
nothing. -/
def Obligations.IrqAckCommand : Prop :=
  ∀ (s : State) (d : Word),
    exec .cmdIrqAck s = .next { s with csr := { s.csr with irqPend := false } } ∧
    State.irq { s with csr := { s.csr with irqPend := false } } = false ∧
    (d.getLsbD 16 = true → decode (csrWriteOf 0x004#9 d) = .instr .cmdIrqAck []) ∧
    (d.getLsbD 16 = false →
      csrPort { write := true, offset := 0x004#9, width := .word, data := d } s = .next s)

/-- RD_CSR (R257): the port returns the register at the offset (10_state R23), and nothing else changes (20_memory R79).
`STATUS.STATE` reads 0 in IDLE, 1 in BUSY, 2 in WAIT_BND and 3 in DONE, as `w.STATE` shows (10_state R29; 42_packet_fsm R180). -/
def Obligations.CsrReadCommand : Prop :=
  ∀ (o : BitVec 7) (s : State), ∃ value, exec (.rdCsr o) s = .next { s with rdata := value } ∧
    (o = 0#7 → value.toNat = 256 * s.csr.lenExact.toNat + 512 * s.csr.irqEn.toNat) ∧
    (o = 1#7 → value.toNat = (match s.w.state with
        | .sIdle => 0
        | .sWaitBnd => 2
        | .sDone => 3
        | .sToc | .sSd | .sC2a | .sC2b | .sFc | .sPad | .sVlen | .sVlast | .sCbr | .sCfin => 1) + 16 * s.csr.resultValid.toNat + 32 * s.csr.unresolved.toNat
      + 256 * errCode s.csr.err + 65536 * s.csr.irqPend.toNat) ∧
    (o = 2#7 → value = s.csr.bufBase) ∧ (o = 3#7 → value.toNat = s.csr.bufLen.toNat) ∧
    (o = 4#7 → value = s.csr.hdr.word) ∧ (o = 5#7 → value = s.csr.pkt.word) ∧
    (o = 6#7 → value.toNat = s.csr.payloadOffset.toNat) ∧ (o = 7#7 → value = s.csr.paddingSize) ∧
    (o = 8#7 → value.toNat = s.csr.totalSize.toNat) ∧ (o = 9#7 → value = s.csr.bndMin) ∧
    (o = 10#7 → value = s.csr.bndMax) ∧ (o = 11#7 → value.toNat = s.csr.bndSig.toNat) ∧
    (o = 12#7 → value = s.csr.bndTotal) ∧ (13 ≤ o.toNat → o.toNat ≤ 63 → value = 0#32) ∧
    (∀ k < 48, o.toNat = 64 + k → value.toNat = (FrameFile.at s.csr.frameSize k).toNat) ∧
    (112 ≤ o.toNat → value = 0#32)

/-- Reserved bits and offsets are RAZ/WI and read-only registers ignore writes (10_state R43): a read returns 0 there, and two
words that differ in reserved bits alone are the same write. `BUF_BASE` above `ADDR_W` reads 0 where the invariant `SpaceInv`
holds. -/
def Obligations.ReservedAndReadOnly : Prop :=
  ∀ (s : State) (o : BitVec 9) (d : Word),
    (o ≠ 0x000#9 → o ≠ 0x004#9 → o ≠ 0x008#9 → o ≠ 0x00C#9 → o ≠ 0x030#9 → o.toNat % 4 = 0 →
      csrPort { write := true, offset := o, width := .word, data := d } s = .next s) ∧
    (∀ k, (0x034 ≤ k ∧ k ≤ 0x0FF ∨ 0x1C0 ≤ k) → s.csrRead k = 0#32) ∧
    s.csrRead 0x000 &&& 0xFFFFFCFF#32 = 0#32 ∧ s.csrRead 0x004 &&& 0xFFFEF8CC#32 = 0#32 ∧
    (SpaceInv s → (s.csrRead 0x008).toNat < 2 ^ s.platform.addrW) ∧
    s.csrRead 0x00C &&& 0xFF000000#32 = 0#32 ∧ s.csrRead 0x014 &&& 0xFFFFF8C0#32 = 0#32 ∧
    s.csrRead 0x018 &&& 0xFF000000#32 = 0#32 ∧ s.csrRead 0x020 &&& 0xFF000000#32 = 0#32 ∧
    s.csrRead 0x02C &&& 0xFFFF0000#32 = 0#32 ∧ (∀ k < 48, s.csrRead (0x100 + 4 * k) &&& 0xFFFFF800#32 = 0#32) ∧
    (∀ d' : Word, d &&& 0x307#32 = d' &&& 0x307#32 → decode (csrWriteOf 0x000#9 d) = decode (csrWriteOf 0x000#9 d')) ∧
    (∀ d' : Word, d.getLsbD 16 = d'.getLsbD 16 → decode (csrWriteOf 0x004#9 d) = decode (csrWriteOf 0x004#9 d')) ∧
    (∀ d' : Word, d.toNat % 2 ^ s.platform.addrW = d'.toNat % 2 ^ s.platform.addrW →
      exec (.wrBufBase d) s = exec (.wrBufBase d') s) ∧
    (∀ d' : Word, d &&& 0xFFFFFF#32 = d' &&& 0xFFFFFF#32 → exec (.wrBufLen d) s = exec (.wrBufLen d') s)

/-! ## The step -/

/-- A step runs the decoded instruction: at each engine state, the row that the bytes at the engine's position decode to
(42_packet_fsm R180, R181; the TOC byte is two rows, R162), and at the CSR port the row of the access. -/
def Obligations.StepRunsDecodedInstruction : Prop :=
  ∀ (s : State) (i j : Instr) (rest : List Byte),
    (∀ b t, s.host = [] → s.w.state = .sToc → 0 < s.len → s.B 0 = some b →
      decode (.element .toc [b]) = .instr i rest → decode (.element .lut [b]) = .instr j rest → exec i s = .next t →
      step s = exec j t) ∧
    (s.host = [] → s.w.state = .sSd ∨ s.w.state = .sC2a ∨ s.w.state = .sC2b ∨ s.w.state = .sVlast ∨
      s.w.state = .sCbr ∨ s.w.state = .sCfin → i = decodeWindow s.w.toc s.w.fc → step s = exec i s) ∧
    (∀ fc, s.host = [] → s.w.state = .sFc → 1 < s.len → s.B 1 = some fc →
      decode (.element .shape [s.w.toc, fc]) = .instr i rest → step s = exec i s) ∧
    (∀ b, s.host = [] → s.w.state = .sPad → 2 + s.w.np.toNat < s.len → s.B (2 + s.w.np.toNat) = some b →
      decode (.element .pad [b]) = .instr i rest → step s = exec i s) ∧
    (∀ bytes, s.host = [] → s.w.state = .sVlen → flBytes s.len s.B s.off = some bytes →
      decode (.element .fl bytes) = .instr i rest → step s = exec i s) ∧
    (∀ a ops, s.host = .csr a :: ops → decode (.csr a) = .instr i rest → step s = exec i { s with host := ops })

/-- Where no byte stands at the engine's position the decode ends in InsufficientData, and where the read fails in BusError
(60_exceptions R282, R285, R287; 20_memory R89). -/
def Obligations.MissingByteEndsTheDecode : Prop :=
  ∀ s : State, s.host = [] →
    (s.w.state = .sToc → s.len = 0 → step s = .next (raiseError .insufficientData s)) ∧
    (s.w.state = .sToc → 0 < s.len → s.B 0 = none → step s = .next (raiseError .busError s)) ∧
    (s.w.state = .sFc → s.len < 2 → step s = .next (raiseError .insufficientData s)) ∧
    (s.w.state = .sFc → 1 < s.len → s.B 1 = none → step s = .next (raiseError .busError s)) ∧
    (s.w.state = .sPad → s.len ≤ 2 + s.w.np.toNat → step s = .next (raiseError .insufficientData s)) ∧
    (s.w.state = .sPad → 2 + s.w.np.toNat < s.len → s.B (2 + s.w.np.toNat) = none →
      step s = .next (raiseError .busError s)) ∧
    (s.w.state = .sVlen → fldec s.len s.B s.off = .insufficient → step s = .next (raiseError .insufficientData s)) ∧
    (s.w.state = .sVlen → fldec s.len s.B s.off = .busError → step s = .next (raiseError .busError s))

/-- IDLE, DONE and WAIT_BND take no engine step (70_reset_and_hazards R320; 60_exceptions R298); a step that answers the same
state is the model's form of that (log 21). -/
def Obligations.QuietStatesStay : Prop :=
  ∀ s : State, s.host = [] → s.visible = .idle ∨ s.visible = .waitBnd ∨ s.visible = .done → step s = .next s

/-- The machine never refuses, and stops only for the two faults of 60_exceptions R301: a host store into the running
decode's buffer, and a CSR access that is not an aligned 32-bit one. Which accesses by bus address reach the CSR port is the
model's reading: the first address decides (log 5). -/
def Obligations.OnlyTheTwoFaultsStop : Prop :=
  ∀ s : State, (∀ r, step s ≠ .refused r) ∧
    (step s = .fault .bufferRace ↔
      ∃ a b ops, s.host = .store a b :: ops ∧ s.visible = .busy ∧ s.inBuffer a = true) ∧
    (step s = .fault .unsupportedCsrAccess ↔
      ∃ op ops a, s.host = op :: ops ∧ accessOf s.platform op = some a ∧ ¬ (a.width = .word ∧ a.offset.toNat % 4 = 0))

/-- No instruction and no engine step writes memory: every byte reads as before (20_memory R72). -/
def Obligations.EngineNeverWritesMemory : Prop :=
  (∀ (i : Instr) (s t : State), exec i s = .next t →
      (∀ a, Memory.read t.mem a = Memory.read s.mem a) ∧ t.mem = s.mem ∧ t.host = s.host ∧ t.fw = s.fw ∧
        t.platform = s.platform) ∧
    (∀ s t : State, engineStep s = .next t →
      (∀ a, Memory.read t.mem a = Memory.read s.mem a) ∧ t.mem = s.mem ∧ t.host = s.host ∧ t.fw = s.fw ∧
        t.platform = s.platform)

/-- A host store that is no race writes its byte and nothing else (20_memory R70, R83). -/
def Obligations.HostStoreWritesOneByte : Prop :=
  ∀ (s : State) (a : Word) (b : Byte) (ops : List HostOp), s.host = .store a b :: ops → Memory.wf s.mem = true →
    isHole s.platform a.toNat = false → ¬ (s.visible = .busy ∧ s.inBuffer a = true) →
    ∃ t, step s = .next t ∧ Memory.read t.mem a.toNat = b ∧
      (∀ a', a' ≠ a.toNat → Memory.read t.mem a' = Memory.read s.mem a') ∧ t.csr = s.csr ∧ t.w = s.w ∧
      t.rdata = s.rdata ∧ t.host = ops ∧ t.fw = s.fw ∧ t.platform = s.platform

/-- The race of 20_memory R83, by addresses: byte `i < w.L` of the running decode's buffer stands at
`(w.BASE + i) mod 2^ADDR_W` (R71), and a host store there while BUSY is BUFFER_RACE. -/
def Obligations.RaceIsAStoreIntoTheBuffer : Prop :=
  ∀ (s : State) (a : Word),
    (s.inBuffer a = true ↔ ∃ i < s.len, a.toNat = (s.w.base.toNat + i) % 2 ^ s.platform.addrW) ∧
    (∀ b ops i, s.host = .store a b :: ops → s.visible = .busy → i < s.len →
      a.toNat = (s.w.base.toNat + i) % 2 ^ s.platform.addrW → step s = .fault .bufferRace)

/-- A buffer read past the last address continues at 0, without an error of its own (R71). -/
def Obligations.BufferReadWraps : Prop :=
  ∀ (s : State) (i : Nat), s.B i = busRead s.platform s.mem ((s.w.base.toNat + i) % 2 ^ s.platform.addrW) ∧
    (s.w.base.toNat + i = 2 ^ s.platform.addrW → s.B i = busRead s.platform s.mem 0)

/-- Reset (70_reset_and_hazards R310, R311; 10_state R61): every CSR offset reads 0, `irq = 0`, the state is IDLE, and a
decode in progress leaves no trace; the memory outside the block stays. The other working registers' values are the
model's choice (log 1) and are not stated. That the firmware, outside the block, keeps its variables is the model's choice (log 22). -/
def Obligations.ResetClearsTheBlock : Prop :=
  ∀ (s : State) (ops : List HostOp), s.host = .reset :: ops → ∃ t, step s = .next t ∧
    (∀ o, t.csrRead o = 0#32) ∧ t.irq = false ∧ t.w.state = .sIdle ∧ t.csr = State.reset.csr ∧
    (∀ a, Memory.read t.mem a = Memory.read s.mem a) ∧ t.host = ops ∧ t.fw = s.fw ∧ t.platform = s.platform

/-! ## Rules of the whole machine -/

/-- The invariants hold at reset (10_state R61), with the platform and the empty memory that the model chose (log 2, log 4). -/
def Obligations.InvariantsAtReset : Prop :=
  SpaceInv State.reset ∧ EngineInv State.reset ∧ StatusInv State.reset ∧ ResultInv State.reset

/-- Every step keeps the memory's canonical form, the platform, and the addresses within `ADDR_W` (10_state R32).
What an unlisted byte reads as, and with it the canonical form, is the model's choice (log 2), and so is a constant platform
(log 4). -/
def Obligations.StepKeepsSpaceInv : Prop :=
  ∀ s t : State, SpaceInv s → step s = .next t → SpaceInv t ∧ t.platform = s.platform

/-- Every step keeps what holds of the working registers in each engine state (42_packet_fsm R180, R181; 41_vlc R142, R145;
43_boundary R229): the frame count stays legal, the cursor inside the buffer, `w.SUM` the sum of the sizes. Two parts of the
invariant are the model's reading: `w.OFF = 2 + w.NP` inside a PAD run (10_state R21; log 9), and that the held header outputs
are those of the TOC byte (log 10). -/
def Obligations.StepKeepsEngineInv : Prop :=
  ∀ s t : State, EngineInv s → step s = .next t → EngineInv t

/-- Every step keeps the life cycle of `RESULT_VALID`, `UNRESOLVED` and `ERR` (10_state R31). -/
def Obligations.StepKeepsStatusInv : Prop :=
  ∀ s t : State, StatusInv s → step s = .next t → StatusInv t

/-- Every step keeps the laws of the result registers (42_packet_fsm R206): where the total is known, sizes, header and
padding add up to it, and no frame exceeds 1275 bytes. -/
def Obligations.StepKeepsResultInv : Prop :=
  ∀ s t : State, EngineInv s → ResultInv s → step s = .next t → ResultInv t

/-- When the range of R221 is computed, and while the decode that computed it lasts, the header lies inside the buffer, the
padding total is bounded by its bytes, and the range fits its registers (43_boundary R229). -/
def Obligations.RangeFitsItsRegisters : Prop :=
  ∀ s : State, EngineInv s → s.w.state = .sCbr ∨ s.w.state = .sWaitBnd ∨ s.w.state = .sCfin →
    s.off ≤ s.len ∧ s.len ≤ 2 ^ 24 - 1 ∧ s.pad ≤ 254 * (s.off - 2) ∧ s.off + s.pad < 255 * 2 ^ 24 ∧
      rangeMin s.off s.pad s.m ≤ rangeMax s.off s.pad s.m ∧
      rangeMax s.off s.pad s.m ≤ 255 * 2 ^ 24 + 1275 * 48 ∧ 255 * 2 ^ 24 + 1275 * 48 < 2 ^ 32

/-- `IRQ_PEND` is set by exactly the steps that enter DONE from a running decode (a commit or an error completion) or enter
WAIT_BND, and cleared only by IRQ_ACK or reset (60_exceptions R290). Which accesses by bus address reach the CSR port is log 5;
that a RESUME with BND_TOTAL 0 commits in its own step is log 19. -/
def Obligations.IrqPendLifeCycle : Prop :=
  ∀ s t : State, step s = .next t →
    (s.csr.irqPend = false → t.csr.irqPend = true →
      s.visible = .busy ∧ (t.visible = .done ∨ t.visible = .waitBnd) ∨ s.visible = .waitBnd ∧ t.visible = .done) ∧
    (s.visible ≠ t.visible → t.visible = .done ∨ t.visible = .waitBnd → t.csr.irqPend = true) ∧
    (s.csr.irqPend = true → t.csr.irqPend = false →
      ∃ op ops, s.host = op :: ops ∧
        (op = .reset ∨ ∃ a, accessOf s.platform op = some a ∧ decode (.csr a) = .instr .cmdIrqAck []))

/-- The result registers change only in the one step of a commit, which shows DONE and RESULT_VALID, or at reset
(42_packet_fsm R200; 20_memory R84). -/
def Obligations.OnlyCommitChangesResults : Prop :=
  ∀ s t : State, step s = .next t → ¬ SameResults s t →
    (t.visible = .done ∧ t.csr.resultValid = true ∧ t.csr.irqPend = true ∧ (s.visible = .busy ∨ s.visible = .waitBnd)) ∨
      ∃ ops, s.host = .reset :: ops

/-- An engine step that stays in BUSY changes nothing the host sees: no CSR, not `irq`, no read of any offset
(42_packet_fsm R182). -/
def Obligations.BusyStepsAreInvisible : Prop :=
  ∀ s t : State, engineStep s = .next t → t.visible = .busy →
    t.csr = s.csr ∧ s.visible = .busy ∧ (∀ o, t.csrRead o = s.csrRead o) ∧ t.irq = s.irq

/-- An engine step depends on no byte outside the buffer: two memories that agree on `B(i)` for all `i < w.L` give the same
step (20_memory R73). -/
def Obligations.EngineReadsOnlyItsBuffer : Prop :=
  ∀ (s : State) (m : Memory), (∀ i < s.len, State.B { s with mem := m } i = s.B i) →
    engineStep { s with mem := m } = andThen (engineStep s) fun t => .next { t with mem := m }

/-- From an accepted START the state machine of R181 computes exactly DECODE (R160): it ends within a bound on the model's
steps (log 3), its registers
hold the outcome, the range registers the range it reached (43_boundary R221, R222), and the rest stays. -/
def Obligations.StateMachineComputesDecode : Prop :=
  ∀ s : State, s.w.state = .sToc → s.host = [] →
    ∃ n t, n ≤ s.len + 60 ∧ Sys2Proof.core.run n s = .next t ∧
      Completes (decodePacket s.len s.w.lx s.B) s t ∧ BoundaryAfter (rangeReached s.len s.w.lx s.B) s t ∧
      SameDescriptor s t ∧ SameOutside s t

/-- The outcome of a decode does not depend on what the working registers held before START (10_state R51; 42_packet_fsm
R208), so no reset value the model chose (log 1) is observable through it. -/
def Obligations.OutcomeIgnoresHiddenRegisters : Prop :=
  ∀ (s s' : State) (lenExact irqEn : Bool), s.w.state = .sIdle → s'.w.state = .sIdle → s.host = [] → s'.host = [] →
    s.csr = s'.csr → s.mem = s'.mem → s.platform = s'.platform →
    ∃ u u' t t' n n', exec (.cmdStart false lenExact irqEn) s = .next u ∧
      exec (.cmdStart false lenExact irqEn) s' = .next u' ∧
      Sys2Proof.core.run n u = .next t ∧ Sys2Proof.core.run n' u' = .next t' ∧
      (t.visible = .done ∨ t.visible = .waitBnd) ∧ t.visible = t'.visible ∧ t.csr = t'.csr ∧ t.mem = s.mem

/-- Every BUSY ends by itself (42_packet_fsm R207; 60_exceptions R299). The bound counts the model's own steps, which is its
choice (log 3): the spec fixes no number. -/
def Obligations.EveryBusyEnds : Prop :=
  ∀ s : State, EngineInv s → s.visible = .busy → s.host = [] →
    ∃ n t, n ≤ s.len + 60 ∧ Sys2Proof.core.run n s = .next t ∧ (t.visible = .done ∨ t.visible = .waitBnd)

/-! ## Firmware -/

/-- SEARCH (43_boundary R231) returns the first candidate in `[BND_MIN, BND_MAX]` whose two bytes match, or 0. That a byte
whose read fails is no match is the model's choice (log 16). -/
def Obligations.SearchFindsFirstMatch : Prop :=
  ∀ (B : Nat → Option Byte) (L lo hi : Nat) (toc fc : Byte) (c : Nat), c = search false B L lo hi toc fc →
    (c ≠ 0 → lo ≤ c ∧ c ≤ hi ∧ c + 1 < L ∧ B c = some toc ∧ B (c + 1) = some fc ∧
      ∀ c', lo ≤ c' → c' < c → ¬ (B c' = some toc ∧ B (c' + 1) = some fc)) ∧
    (c = 0 → 0 < lo → ∀ c', lo ≤ c' → c' ≤ hi → c' + 1 < L → ¬ (B c' = some toc ∧ B (c' + 1) = some fc))

/-- Where the scanner goes after a packet at `cur` (44_host_interface R262): past its total; where that is unresolved, to the
first offset of the probe window, inside the buffer, that decodes, else to `cur + 1`; always forward. Then the host's own steps,
each operation of the scanner loop and of its probe, which move the cursor so. For every buffer and length: what a failed
firmware load and a call of 2^24 bytes or more mean is the model's choice (log 16), and so are the variables that hold what
was found and emitted (log 22). -/
def Obligations.ScannerMovesForward : Prop :=
  (∀ (strong : Bool) (B : Nat → Option Byte) (L cur est next : Nat) (p : Packet),
      fwDecodePacket strong (fromOffset B cur) (L - cur) = .packet p → next = nextCursor strong B L cur p →
      est = cur + p.res.payloadOffset + p.res.frames.getD 0 0 * p.res.frameCount →
      cur < next ∧
      (p.res.total ≠ 0 → next = cur + p.res.total) ∧
      (∀ q r, p.res.total = 0 → est ≤ q → q < est + 1000 → q < L →
        fwDecodePacket strong (fromOffset B q) (L - q) = .packet r →
        (∀ q', est ≤ q' → q' < q → ∃ e, fwDecodePacket strong (fromOffset B q') (L - q') = .error e) → next = q) ∧
      (p.res.total = 0 → (∀ q, est ≤ q → q < est + 1000 → q < L →
        ∃ e, fwDecodePacket strong (fromOffset B q) (L - q) = .error e) → next = cur + 1)) ∧
    (∀ (s t : State) (a : Word) (L q left : Nat) (ops : List HostOp) (p : Packet), step s = .next t →
      s.fw.result = some (.packet p) →
      (s.host = .scanNext a L :: ops →
        t.fw.found = some (p, s.fw.cursor) ∧ t.fw.emitted = s.fw.emitted ++ [(p, s.fw.cursor)] ∧
        (p.res.total ≠ 0 → t.fw.cursor = s.fw.cursor + p.res.total ∧ t.host = ops) ∧
        (p.res.total = 0 → t.fw.cursor = s.fw.cursor ∧ t.host = .probe a L
          (s.fw.cursor + p.res.payloadOffset + p.res.frames.getD 0 0 * p.res.frameCount) 1000 :: ops)) ∧
      (s.host = .probeNext a L q left :: ops → t.fw.cursor = q ∧ t.host = ops)) ∧
    (∀ (s : State) (a : Word) (L q left : Nat) (ops : List HostOp) (e : ErrKind), s.fw.result = some (.error e) →
      (s.host = .scanNext a L :: ops →
        step s = .next { s with host := .scan a L :: ops, fw := { s.fw with cursor := s.fw.cursor + 1 } }) ∧
      (s.host = .probeNext a L q left :: ops → step s = .next { s with host := .probe a L (q + 1) (left - 1) :: ops })) ∧
    (∀ (s : State) (a : Word) (L q left : Nat) (ops : List HostOp),
      (s.host = .scan a L :: ops →
        (s.fw.cursor < L → step s = .next { s with
          host := .decodePacket (a + BitVec.ofNat 32 s.fw.cursor) (L - s.fw.cursor) :: .scanNext a L :: ops }) ∧
        (L ≤ s.fw.cursor → step s = .next { s with host := ops })) ∧
      (s.host = .probe a L q left :: ops →
        (0 < left → q < L → step s = .next { s with
          host := .decodePacket (a + BitVec.ofNat 32 q) (L - q) :: .probeNext a L q left :: ops }) ∧
        (left = 0 ∨ L ≤ q → step s = .next { s with host := ops, fw := { s.fw with cursor := s.fw.cursor + 1 } })))

/-- decode_packet as the host runs it, access by access, from IDLE or DONE (44_host_interface R259; 43_boundary R226, R231):
after finitely many steps it has returned what `fwDecodePacket` gives for the buffer, a DecodeError or the record built from the
result registers. How the accesses and the engine interleave is log 3; what a failed firmware load and a length of 2^24 or more
mean is log 16; that the result stands in a variable of State is log 22. -/
def Obligations.DecodePacketRoutineReturns : Prop :=
  ∀ (s : State) (a : Word) (n : Nat) (ops : List HostOp), s.host = .decodePacket a n :: ops →
    s.w.state = .sIdle ∨ s.w.state = .sDone →
    ∃ k t, Sys2Proof.core.run k s = .next t ∧ t.host = ops ∧
      t.fw = { s.fw with
        words := t.fw.words, result := some (fwDecodePacket s.platform.strongSearch (fwByte s a) n) } ∧
      (t.w.state = .sIdle ∨ t.w.state = .sDone) ∧ (n < 2 ^ 24 → t.visible = .done) ∧
      (∀ x, Memory.read t.mem x = Memory.read s.mem x) ∧ t.platform = s.platform
end

