-- ==== Sys2Proof/Laws/Memory.lean ====
section
/-! SUPPORT. The laws of the buffer memory: read after write, every other address, the canonical form. -/
namespace Sys2Proof.Machine

@[simp] theorem Memory.read_nil (a : Nat) : Memory.read [] a = Memory.unlisted := rfl

/-- An address below every listed one reads as unlisted. -/
theorem Memory.read_below {lo a : Nat} {m : Memory} (h : Memory.wfFrom lo m = true) (ha : a < lo) :
    Memory.read m a = Memory.unlisted := by
  induction m generalizing lo with
  | nil => rfl
  | cons c m ih =>
    obtain ⟨x, y⟩ := c
    simp only [Memory.wfFrom, Bool.and_eq_true, decide_eq_true_eq] at h
    have hx : x ≠ a := by omega
    simp only [Memory.read, if_neg hx]
    exact ih h.2 (by omega)

/-- A weaker bound also holds. -/
theorem Memory.wfFrom_mono {lo lo' : Nat} {m : Memory} (h : Memory.wfFrom lo m = true) (hl : lo' ≤ lo) :
    Memory.wfFrom lo' m = true := by
  cases m with
  | nil => rfl
  | cons c m =>
    obtain ⟨x, y⟩ := c
    simp only [Memory.wfFrom, Bool.and_eq_true, decide_eq_true_eq] at h ⊢
    exact ⟨⟨⟨by omega, h.1.1.2⟩, h.1.2⟩, h.2⟩

/-- Reading the byte just written. -/
theorem Memory.read_write_same {lo a : Nat} {m : Memory} (b : Byte) (h : Memory.wfFrom lo m = true) :
    Memory.read (Memory.write m a b) a = b := by
  induction m generalizing lo with
  | nil =>
    by_cases hb : b = Memory.unlisted
    · simp [Memory.write, hb]
    · simp [Memory.write, Memory.read, hb]
  | cons c m ih =>
    obtain ⟨x, y⟩ := c
    have h' := h
    simp only [Memory.wfFrom, Bool.and_eq_true, decide_eq_true_eq] at h
    by_cases hlt : a < x
    · by_cases hb : b = Memory.unlisted
      · simp only [Memory.write, if_pos hlt, if_pos hb]
        have hx : x ≠ a := by omega
        simp only [Memory.read, if_neg hx]
        rw [Memory.read_below h.2 (by omega), hb]
      · simp [Memory.write, Memory.read, if_pos hlt, if_neg hb]
    · by_cases he : a = x
      · subst he
        by_cases hb : b = Memory.unlisted
        · simp only [Memory.write, lt_irrefl, if_false, if_true, if_pos hb]
          rw [Memory.read_below h.2 (by omega), hb]
        · simp [Memory.write, Memory.read, if_neg hb]
      · have hx : x ≠ a := fun e => he e.symm
        simp only [Memory.write, if_neg hlt, if_neg he, Memory.read, if_neg hx]
        exact ih h.2

/-- A write leaves every other address alone. -/
theorem Memory.read_write_other {a a' : Nat} {m : Memory} (b : Byte) (hne : a' ≠ a) :
    Memory.read (Memory.write m a b) a' = Memory.read m a' := by
  induction m with
  | nil =>
    by_cases hb : b = Memory.unlisted
    · simp [Memory.write, hb]
    · simp [Memory.write, Memory.read, hb, hne.symm]
  | cons c m ih =>
    obtain ⟨x, y⟩ := c
    by_cases hlt : a < x
    · by_cases hb : b = Memory.unlisted
      · simp [Memory.write, if_pos hlt, if_pos hb]
      · simp [Memory.write, if_pos hlt, if_neg hb, Memory.read, hne.symm]
    · by_cases he : a = x
      · subst he
        by_cases hb : b = Memory.unlisted
        · simp [Memory.write, if_pos hb, Memory.read, hne.symm]
        · simp [Memory.write, if_neg hb, Memory.read, hne.symm]
      · simp only [Memory.write, if_neg hlt, if_neg he, Memory.read, ih]

/-- A write keeps the canonical form. -/
theorem Memory.wfFrom_write {lo a : Nat} {m : Memory} (b : Byte) (h : Memory.wfFrom lo m = true) (hlo : lo ≤ a)
    (ha : a < 2 ^ 32) : Memory.wfFrom lo (Memory.write m a b) = true := by
  induction m generalizing lo with
  | nil =>
    by_cases hb : b = Memory.unlisted
    · simp [Memory.write, hb, Memory.wfFrom]
    · simp only [Memory.write, if_neg hb, Memory.wfFrom, Bool.and_eq_true, decide_eq_true_eq]
      exact ⟨⟨⟨hlo, ha⟩, hb⟩, trivial⟩
  | cons c m ih =>
    obtain ⟨x, y⟩ := c
    have h' := h
    simp only [Memory.wfFrom, Bool.and_eq_true, decide_eq_true_eq] at h
    by_cases hlt : a < x
    · by_cases hb : b = Memory.unlisted
      · simpa only [Memory.write, if_pos hlt, if_pos hb] using h'
      · simp only [Memory.write, if_pos hlt, if_neg hb, Memory.wfFrom, Bool.and_eq_true, decide_eq_true_eq]
        exact ⟨⟨⟨hlo, ha⟩, hb⟩, ⟨⟨⟨by omega, h.1.1.2⟩, h.1.2⟩, h.2⟩⟩
    · by_cases he : a = x
      · subst he
        by_cases hb : b = Memory.unlisted
        · simp only [Memory.write, lt_irrefl, if_false, if_true, if_pos hb]
          exact Memory.wfFrom_mono h.2 (by omega)
        · simp only [Memory.write, lt_irrefl, if_false, if_true, if_neg hb, Memory.wfFrom, Bool.and_eq_true,
            decide_eq_true_eq]
          exact ⟨⟨⟨hlo, ha⟩, hb⟩, h.2⟩
      · simp only [Memory.write, if_neg hlt, if_neg he, Memory.wfFrom, Bool.and_eq_true, decide_eq_true_eq]
        exact ⟨⟨⟨h.1.1.1, h.1.1.2⟩, h.1.2⟩, ih h.2 (by omega)⟩

/-- A write below 2^32 keeps `Memory.wf`. -/
theorem Memory.wf_write {a : Nat} {m : Memory} (b : Byte) (h : Memory.wf m = true) (ha : a < 2 ^ 32) :
    Memory.wf (Memory.write m a b) = true :=
  Memory.wfFrom_write b h (Nat.zero_le a) ha

/-- A host store keeps `Memory.wf`. -/
theorem hostStore_wf (a : Word) (b : Byte) (s : State) (h : Memory.wf s.mem = true) :
    Memory.wf (hostStore a b s).mem = true := by
  by_cases hh : isHole s.platform a.toNat
  · simpa [hostStore, hh] using h
  · simpa [hostStore, hh] using Memory.wf_write b h a.isLt

/-- A host store changes the memory alone. -/
theorem hostStore_frame (a : Word) (b : Byte) (s : State) :
    (hostStore a b s).csr = s.csr ∧ (hostStore a b s).w = s.w ∧ (hostStore a b s).rdata = s.rdata ∧
      (hostStore a b s).host = s.host ∧ (hostStore a b s).platform = s.platform := by
  by_cases hh : isHole s.platform a.toNat <;> simp [hostStore, hh]

end Sys2Proof.Machine
end

