-- ==== Sys2Proof/Laws/State.lean ====
section
/-! SUPPORT. One lemma per field per named update of State, each true by rfl: later proofs never unfold a record update. -/
namespace Sys2Proof.Machine

/-! ## `goto` -/

@[simp] theorem goto_csr (s : State) (st : EngineState) :
    (s.goto st).csr = s.csr := rfl

@[simp] theorem goto_w (s : State) (st : EngineState) :
    (s.goto st).w = { s.w with state := st } := rfl

@[simp] theorem goto_mem (s : State) (st : EngineState) :
    (s.goto st).mem = s.mem := rfl

@[simp] theorem goto_rdata (s : State) (st : EngineState) :
    (s.goto st).rdata = s.rdata := rfl

@[simp] theorem goto_host (s : State) (st : EngineState) :
    (s.goto st).host = s.host := rfl

@[simp] theorem goto_fw (s : State) (st : EngineState) :
    (s.goto st).fw = s.fw := rfl

@[simp] theorem goto_platform (s : State) (st : EngineState) :
    (s.goto st).platform = s.platform := rfl

/-! ## `latchFl` -/

@[simp] theorem latchFl_csr (s : State) (size n : Nat) :
    (s.latchFl size n).csr = s.csr := rfl

@[simp] theorem latchFl_w (s : State) (size n : Nat) :
    (s.latchFl size n).w = { s.w with fls := BitVec.ofNat 11 size, fln := BitVec.ofNat 2 n } := rfl

@[simp] theorem latchFl_mem (s : State) (size n : Nat) :
    (s.latchFl size n).mem = s.mem := rfl

@[simp] theorem latchFl_rdata (s : State) (size n : Nat) :
    (s.latchFl size n).rdata = s.rdata := rfl

@[simp] theorem latchFl_host (s : State) (size n : Nat) :
    (s.latchFl size n).host = s.host := rfl

@[simp] theorem latchFl_fw (s : State) (size n : Nat) :
    (s.latchFl size n).fw = s.fw := rfl

@[simp] theorem latchFl_platform (s : State) (size n : Nat) :
    (s.latchFl size n).platform = s.platform := rfl

/-! ## `writeCtrl` -/

@[simp] theorem writeCtrl_csr (s : State) (le ie : Bool) :
    (s.writeCtrl le ie).csr = { s.csr with lenExact := le, irqEn := ie } := rfl

@[simp] theorem writeCtrl_w (s : State) (le ie : Bool) :
    (s.writeCtrl le ie).w = s.w := rfl

@[simp] theorem writeCtrl_mem (s : State) (le ie : Bool) :
    (s.writeCtrl le ie).mem = s.mem := rfl

@[simp] theorem writeCtrl_rdata (s : State) (le ie : Bool) :
    (s.writeCtrl le ie).rdata = s.rdata := rfl

@[simp] theorem writeCtrl_host (s : State) (le ie : Bool) :
    (s.writeCtrl le ie).host = s.host := rfl

@[simp] theorem writeCtrl_fw (s : State) (le ie : Bool) :
    (s.writeCtrl le ie).fw = s.fw := rfl

@[simp] theorem writeCtrl_platform (s : State) (le ie : Bool) :
    (s.writeCtrl le ie).platform = s.platform := rfl

/-! ## `moveTo` -/

@[simp] theorem moveTo_csr (s : State) (off : Nat) :
    (s.moveTo off).csr = s.csr := rfl

@[simp] theorem moveTo_w (s : State) (off : Nat) :
    (s.moveTo off).w = { s.w with off := BitVec.ofNat 24 off } := rfl

@[simp] theorem moveTo_mem (s : State) (off : Nat) :
    (s.moveTo off).mem = s.mem := rfl

@[simp] theorem moveTo_rdata (s : State) (off : Nat) :
    (s.moveTo off).rdata = s.rdata := rfl

@[simp] theorem moveTo_host (s : State) (off : Nat) :
    (s.moveTo off).host = s.host := rfl

@[simp] theorem moveTo_fw (s : State) (off : Nat) :
    (s.moveTo off).fw = s.fw := rfl

@[simp] theorem moveTo_platform (s : State) (off : Nat) :
    (s.moveTo off).platform = s.platform := rfl

/-! ## `push` -/

@[simp] theorem push_csr (s : State) (ops : List HostOp) :
    (s.push ops).csr = s.csr := rfl

@[simp] theorem push_w (s : State) (ops : List HostOp) :
    (s.push ops).w = s.w := rfl

@[simp] theorem push_mem (s : State) (ops : List HostOp) :
    (s.push ops).mem = s.mem := rfl

@[simp] theorem push_rdata (s : State) (ops : List HostOp) :
    (s.push ops).rdata = s.rdata := rfl

@[simp] theorem push_host (s : State) (ops : List HostOp) :
    (s.push ops).host = ops ++ s.host := rfl

@[simp] theorem push_fw (s : State) (ops : List HostOp) :
    (s.push ops).fw = s.fw := rfl

@[simp] theorem push_platform (s : State) (ops : List HostOp) :
    (s.push ops).platform = s.platform := rfl

/-! ## `setFw` and `setCursor` -/

@[simp] theorem setFw_csr (s : State) (fw : Firmware) :
    (s.setFw fw).csr = s.csr := rfl

@[simp] theorem setFw_w (s : State) (fw : Firmware) :
    (s.setFw fw).w = s.w := rfl

@[simp] theorem setFw_mem (s : State) (fw : Firmware) :
    (s.setFw fw).mem = s.mem := rfl

@[simp] theorem setFw_rdata (s : State) (fw : Firmware) :
    (s.setFw fw).rdata = s.rdata := rfl

@[simp] theorem setFw_host (s : State) (fw : Firmware) :
    (s.setFw fw).host = s.host := rfl

@[simp] theorem setFw_fw (s : State) (fw : Firmware) :
    (s.setFw fw).fw = fw := rfl

@[simp] theorem setFw_platform (s : State) (fw : Firmware) :
    (s.setFw fw).platform = s.platform := rfl

@[simp] theorem setCursor_csr (s : State) (cur : Nat) :
    (s.setCursor cur).csr = s.csr := rfl

@[simp] theorem setCursor_w (s : State) (cur : Nat) :
    (s.setCursor cur).w = s.w := rfl

@[simp] theorem setCursor_mem (s : State) (cur : Nat) :
    (s.setCursor cur).mem = s.mem := rfl

@[simp] theorem setCursor_rdata (s : State) (cur : Nat) :
    (s.setCursor cur).rdata = s.rdata := rfl

@[simp] theorem setCursor_host (s : State) (cur : Nat) :
    (s.setCursor cur).host = s.host := rfl

@[simp] theorem setCursor_fw (s : State) (cur : Nat) :
    (s.setCursor cur).fw = { s.fw with cursor := cur } := rfl

@[simp] theorem setCursor_platform (s : State) (cur : Nat) :
    (s.setCursor cur).platform = s.platform := rfl

/-! ## `raiseError` -/

@[simp] theorem raiseError_csr (e : ErrKind) (s : State) :
    (raiseError e s).csr = { s.csr with err := some e, irqPend := true } := rfl

@[simp] theorem raiseError_w (e : ErrKind) (s : State) :
    (raiseError e s).w = { s.w with state := .sDone } := rfl

@[simp] theorem raiseError_mem (e : ErrKind) (s : State) :
    (raiseError e s).mem = s.mem := rfl

@[simp] theorem raiseError_rdata (e : ErrKind) (s : State) :
    (raiseError e s).rdata = s.rdata := rfl

@[simp] theorem raiseError_host (e : ErrKind) (s : State) :
    (raiseError e s).host = s.host := rfl

@[simp] theorem raiseError_fw (e : ErrKind) (s : State) :
    (raiseError e s).fw = s.fw := rfl

@[simp] theorem raiseError_platform (e : ErrKind) (s : State) :
    (raiseError e s).platform = s.platform := rfl

/-! ## `commit` -/

@[simp] theorem commit_w (r : Result) (s : State) :
    (commit r s).w = { s.w with state := .sDone } := rfl

@[simp] theorem commit_mem (r : Result) (s : State) :
    (commit r s).mem = s.mem := rfl

@[simp] theorem commit_rdata (r : Result) (s : State) :
    (commit r s).rdata = s.rdata := rfl

@[simp] theorem commit_host (r : Result) (s : State) :
    (commit r s).host = s.host := rfl

@[simp] theorem commit_fw (r : Result) (s : State) :
    (commit r s).fw = s.fw := rfl

@[simp] theorem commit_platform (r : Result) (s : State) :
    (commit r s).platform = s.platform := rfl

/-! ## `readFc` -/

@[simp] theorem readFc_csr (fc : Byte) (s : State) :
    (readFc fc s).csr = s.csr := rfl

@[simp] theorem readFc_w (fc : Byte) (s : State) :
    (readFc fc s).w = { s.w with fc := fc, off := 2#24, pad := 0#32, np := 0#24 } := rfl

@[simp] theorem readFc_mem (fc : Byte) (s : State) :
    (readFc fc s).mem = s.mem := rfl

@[simp] theorem readFc_rdata (fc : Byte) (s : State) :
    (readFc fc s).rdata = s.rdata := rfl

@[simp] theorem readFc_host (fc : Byte) (s : State) :
    (readFc fc s).host = s.host := rfl

@[simp] theorem readFc_fw (fc : Byte) (s : State) :
    (readFc fc s).fw = s.fw := rfl

@[simp] theorem readFc_platform (fc : Byte) (s : State) :
    (readFc fc s).platform = s.platform := rfl

/-! ## `padAccumulate` -/

@[simp] theorem padAccumulate_csr (x : Nat) (s : State) :
    (padAccumulate x s).csr = s.csr := rfl

@[simp] theorem padAccumulate_mem (x : Nat) (s : State) :
    (padAccumulate x s).mem = s.mem := rfl

@[simp] theorem padAccumulate_rdata (x : Nat) (s : State) :
    (padAccumulate x s).rdata = s.rdata := rfl

@[simp] theorem padAccumulate_host (x : Nat) (s : State) :
    (padAccumulate x s).host = s.host := rfl

@[simp] theorem padAccumulate_fw (x : Nat) (s : State) :
    (padAccumulate x s).fw = s.fw := rfl

@[simp] theorem padAccumulate_platform (x : Nat) (s : State) :
    (padAccumulate x s).platform = s.platform := rfl

/-! ## `startDecode` -/

@[simp] theorem startDecode_mem (s : State) :
    (startDecode s).mem = s.mem := rfl

@[simp] theorem startDecode_rdata (s : State) :
    (startDecode s).rdata = s.rdata := rfl

@[simp] theorem startDecode_host (s : State) :
    (startDecode s).host = s.host := rfl

@[simp] theorem startDecode_fw (s : State) :
    (startDecode s).fw = s.fw := rfl

@[simp] theorem startDecode_platform (s : State) :
    (startDecode s).platform = s.platform := rfl

/-! ## `publishRange` -/

@[simp] theorem publishRange_mem (s : State) :
    (publishRange s).mem = s.mem := rfl

@[simp] theorem publishRange_rdata (s : State) :
    (publishRange s).rdata = s.rdata := rfl

@[simp] theorem publishRange_host (s : State) :
    (publishRange s).host = s.host := rfl

@[simp] theorem publishRange_fw (s : State) :
    (publishRange s).fw = s.fw := rfl

@[simp] theorem publishRange_platform (s : State) :
    (publishRange s).platform = s.platform := rfl

/-! ## `toSplit` -/

@[simp] theorem toSplit_csr (T : Word) (s : State) :
    (toSplit T s).csr = s.csr := rfl

@[simp] theorem toSplit_w (T : Word) (s : State) :
    (toSplit T s).w = { s.w with t := T, state := .sCfin } := rfl

@[simp] theorem toSplit_mem (T : Word) (s : State) :
    (toSplit T s).mem = s.mem := rfl

@[simp] theorem toSplit_rdata (T : Word) (s : State) :
    (toSplit T s).rdata = s.rdata := rfl

@[simp] theorem toSplit_host (T : Word) (s : State) :
    (toSplit T s).host = s.host := rfl

@[simp] theorem toSplit_fw (T : Word) (s : State) :
    (toSplit T s).fw = s.fw := rfl

@[simp] theorem toSplit_platform (T : Word) (s : State) :
    (toSplit T s).platform = s.platform := rfl

/-! ## `needBoundary` -/

@[simp] theorem needBoundary_csr (s : State) :
    (needBoundary s).csr = { s.csr with irqPend := true } := rfl

@[simp] theorem needBoundary_w (s : State) :
    (needBoundary s).w = { s.w with state := .sWaitBnd } := rfl

@[simp] theorem needBoundary_mem (s : State) :
    (needBoundary s).mem = s.mem := rfl

@[simp] theorem needBoundary_rdata (s : State) :
    (needBoundary s).rdata = s.rdata := rfl

@[simp] theorem needBoundary_host (s : State) :
    (needBoundary s).host = s.host := rfl

@[simp] theorem needBoundary_fw (s : State) :
    (needBoundary s).fw = s.fw := rfl

@[simp] theorem needBoundary_platform (s : State) :
    (needBoundary s).platform = s.platform := rfl

/-! ## The registers after `commit` (42_packet_fsm R200) -/

@[simp] theorem commit_csr_hdr (r : Result) (s : State) : (commit r s).csr.hdr = s.w.hdr := rfl

@[simp] theorem commit_csr_pkt (r : Result) (s : State) : (commit r s).csr.pkt = r.pkt := rfl

@[simp] theorem commit_csr_payloadOffset (r : Result) (s : State) : (commit r s).csr.payloadOffset = BitVec.ofNat 24 r.payloadOffset := rfl

@[simp] theorem commit_csr_paddingSize (r : Result) (s : State) : (commit r s).csr.paddingSize = BitVec.ofNat 32 r.paddingSize := rfl

@[simp] theorem commit_csr_totalSize (r : Result) (s : State) : (commit r s).csr.totalSize = BitVec.ofNat 24 r.total := rfl

@[simp] theorem commit_csr_frameSize (r : Result) (s : State) : (commit r s).csr.frameSize = frameFileOf r := rfl

@[simp] theorem commit_csr_resultValid (r : Result) (s : State) : (commit r s).csr.resultValid = true := rfl

@[simp] theorem commit_csr_unresolved (r : Result) (s : State) : (commit r s).csr.unresolved = decide (r.total = 0) := rfl

@[simp] theorem commit_csr_err (r : Result) (s : State) : (commit r s).csr.err = none := rfl

@[simp] theorem commit_csr_irqPend (r : Result) (s : State) : (commit r s).csr.irqPend = true := rfl

@[simp] theorem commit_csr_lenExact (r : Result) (s : State) : (commit r s).csr.lenExact = s.csr.lenExact := rfl

@[simp] theorem commit_csr_irqEn (r : Result) (s : State) : (commit r s).csr.irqEn = s.csr.irqEn := rfl

@[simp] theorem commit_csr_bufBase (r : Result) (s : State) : (commit r s).csr.bufBase = s.csr.bufBase := rfl

@[simp] theorem commit_csr_bufLen (r : Result) (s : State) : (commit r s).csr.bufLen = s.csr.bufLen := rfl

@[simp] theorem commit_csr_bndMin (r : Result) (s : State) : (commit r s).csr.bndMin = s.csr.bndMin := rfl

@[simp] theorem commit_csr_bndMax (r : Result) (s : State) : (commit r s).csr.bndMax = s.csr.bndMax := rfl

@[simp] theorem commit_csr_bndSig (r : Result) (s : State) : (commit r s).csr.bndSig = s.csr.bndSig := rfl

@[simp] theorem commit_csr_bndTotal (r : Result) (s : State) : (commit r s).csr.bndTotal = s.csr.bndTotal := rfl

/-! ## The registers after an accepted START (44_host_interface R251) -/

@[simp] theorem startDecode_csr_resultValid (s : State) : (startDecode s).csr.resultValid = false := rfl

@[simp] theorem startDecode_csr_unresolved (s : State) : (startDecode s).csr.unresolved = false := rfl

@[simp] theorem startDecode_csr_err (s : State) : (startDecode s).csr.err = none := rfl

@[simp] theorem startDecode_csr_bndMin (s : State) : (startDecode s).csr.bndMin = 0#32 := rfl

@[simp] theorem startDecode_csr_bndMax (s : State) : (startDecode s).csr.bndMax = 0#32 := rfl

@[simp] theorem startDecode_csr_bndSig (s : State) : (startDecode s).csr.bndSig = 0#16 := rfl

@[simp] theorem startDecode_csr_bndTotal (s : State) : (startDecode s).csr.bndTotal = 0#32 := rfl

@[simp] theorem startDecode_csr_lenExact (s : State) : (startDecode s).csr.lenExact = s.csr.lenExact := rfl

@[simp] theorem startDecode_csr_irqEn (s : State) : (startDecode s).csr.irqEn = s.csr.irqEn := rfl

@[simp] theorem startDecode_csr_irqPend (s : State) : (startDecode s).csr.irqPend = s.csr.irqPend := rfl

@[simp] theorem startDecode_csr_bufBase (s : State) : (startDecode s).csr.bufBase = s.csr.bufBase := rfl

@[simp] theorem startDecode_csr_bufLen (s : State) : (startDecode s).csr.bufLen = s.csr.bufLen := rfl

@[simp] theorem startDecode_csr_hdr (s : State) : (startDecode s).csr.hdr = s.csr.hdr := rfl

@[simp] theorem startDecode_csr_pkt (s : State) : (startDecode s).csr.pkt = s.csr.pkt := rfl

@[simp] theorem startDecode_csr_payloadOffset (s : State) : (startDecode s).csr.payloadOffset = s.csr.payloadOffset := rfl

@[simp] theorem startDecode_csr_paddingSize (s : State) : (startDecode s).csr.paddingSize = s.csr.paddingSize := rfl

@[simp] theorem startDecode_csr_totalSize (s : State) : (startDecode s).csr.totalSize = s.csr.totalSize := rfl

@[simp] theorem startDecode_csr_frameSize (s : State) : (startDecode s).csr.frameSize = s.csr.frameSize := rfl

@[simp] theorem startDecode_w_state (s : State) : (startDecode s).w.state = .sToc := rfl

@[simp] theorem startDecode_w_base (s : State) : (startDecode s).w.base = BitVec.ofNat 32 (s.csr.bufBase.toNat % 2 ^ s.platform.addrW) := rfl

@[simp] theorem startDecode_w_len (s : State) : (startDecode s).w.len = s.csr.bufLen := rfl

@[simp] theorem startDecode_w_lx (s : State) : (startDecode s).w.lx = s.csr.lenExact := rfl

@[simp] theorem startDecode_w_off (s : State) : (startDecode s).w.off = 0#24 := rfl

@[simp] theorem startDecode_w_pad (s : State) : (startDecode s).w.pad = 0#32 := rfl

@[simp] theorem startDecode_w_sum (s : State) : (startDecode s).w.sum = 0#17 := rfl

@[simp] theorem startDecode_w_k (s : State) : (startDecode s).w.k = 0#6 := rfl

end Sys2Proof.Machine
end

