-- ==== Sys2Proof/Laws/Ops.lean ====
section
/-! SUPPORT. What each shared operation can do, said once: how a decode ends, and where the state machine goes. -/
namespace Sys2Proof.Machine

/-- A decode that ends takes the error completion or the commit. -/
theorem finish_cases (x : Except ErrKind Result) (s : State) :
    (∃ e, x = .error e ∧ finish x s = raiseError e s) ∨ (∃ r, x = .ok r ∧ finish x s = commit r s) := by
  cases x with
  | error e => exact .inl ⟨e, rfl, rfl⟩
  | ok r => exact .inr ⟨r, rfl, rfl⟩

/-- A shape of codes 0–2 ends in the error completion, or in the commit with the cursor at the payload. -/
theorem finishPlain_cases (x : Except ErrKind Result) (s : State) :
    (∃ e, x = .error e ∧ finishPlain x s = raiseError e s) ∨
      (∃ r, x = .ok r ∧ finishPlain x s = commit r (s.moveTo r.payloadOffset)) := by
  cases x with
  | error e => exact .inl ⟨e, rfl, rfl⟩
  | ok r => exact .inr ⟨r, rfl, rfl⟩

/-- The FL outputs change `w.FLS` and `w.FLN` alone. -/
theorem latchVerdict_cases (s : State) (a : FlVerdict) :
    s.latchVerdict a = s ∨ ∃ size n, a = .ok size n ∧ s.latchVerdict a = s.latchFl size n := by
  cases a with
  | ok size n => exact .inr ⟨size, n, rfl, rfl⟩
  | insufficient => exact .inl rfl
  | busError => exact .inl rfl

/-- After the padding code: the sizes, the last frame, or the CBR dispatch. -/
theorem afterPadding_cases (s : State) :
    (s.v = true ∧ 2 ≤ s.m ∧ afterPadding s = { s with w := { s.w with sum := 0#17, k := 0#6, state := .sVlen } }) ∨
      (s.v = true ∧ s.m < 2 ∧ afterPadding s = { s with w := { s.w with sum := 0#17, k := 0#6, state := .sVlast } }) ∨
      (s.v = false ∧ afterPadding s = s.goto .sCbr) := by
  unfold afterPadding
  cases hv : s.v with
  | false => exact .inr (.inr ⟨rfl, rfl⟩)
  | true =>
    by_cases hm : 2 ≤ s.m
    · exact .inl ⟨rfl, hm, by simp [hm]⟩
    · exact .inr (.inl ⟨rfl, by omega, by simp [hm]⟩)

/-- A legal FC byte: the padding code, or straight on. -/
theorem c3Header_cases (fc : Byte) (s : State) :
    (fcP fc = true ∧ c3Header fc s = (readFc fc s).goto .sPad) ∨
      (fcP fc = false ∧ c3Header fc s = afterPadding (readFc fc s)) := by
  unfold c3Header
  cases fcP fc with
  | true => exact .inl ⟨rfl, rfl⟩
  | false => exact .inr ⟨rfl, rfl⟩

/-- Frame 1 of code 2: an error, or on to frame 2. -/
theorem c2First_cases (s : State) :
    (fldec s.len s.B 1 = .insufficient ∧ c2First s = raiseError .insufficientData s) ∨
      (fldec s.len s.B 1 = .busError ∧ c2First s = raiseError .busError s) ∨
      (∃ size n, fldec s.len s.B 1 = .ok size n ∧
        c2First s = { s with w := { s.w with
          fls := BitVec.ofNat 11 size, fln := BitVec.ofNat 2 n
          s1 := BitVec.ofNat 11 size, n1 := BitVec.ofNat 2 n, off := BitVec.ofNat 24 (1 + n), state := .sC2b } }) := by
  unfold c2First
  cases h : fldec s.len s.B 1 with
  | insufficient => exact .inl ⟨rfl, rfl⟩
  | busError => exact .inr (.inl ⟨rfl, rfl⟩)
  | ok size n => exact .inr (.inr ⟨size, n, rfl, rfl⟩)

/-- The VBR loop: one more size, or the last frame next. -/
theorem vlenStore_cases (size n : Nat) (s : State) :
    ∃ k st, (s.w.k.toNat + 2 < s.m ∧ k = BitVec.ofNat 6 (s.w.k.toNat + 1) ∧ st = s.w.state ∨
        ¬ s.w.k.toNat + 2 < s.m ∧ k = s.w.k ∧ st = .sVlast) ∧
      vlenStore size n s = { s with w := { s.w with
        sizes := s.w.sizes.setIfInBounds s.w.k.toNat (BitVec.ofNat 11 size)
        sum := BitVec.ofNat 17 (s.w.sum.toNat + size), off := BitVec.ofNat 24 (s.w.off.toNat + n)
        k := k, state := st } } := by
  by_cases h : s.w.k.toNat + 2 < s.m
  · exact ⟨_, _, .inl ⟨h, rfl, rfl⟩, by simp [vlenStore, h]⟩
  · exact ⟨_, _, .inr ⟨h, rfl, rfl⟩, by simp [vlenStore, h]⟩

/-- The last frame of a VBR packet: an error, or the commit. -/
theorem vbrLast_cases (s : State) :
    ((s.len < s.off + s.pad + s.sum ∨ Config.frameMax < lastFrame s) ∧
        vbrLast s = raiseError .invalidFrameSize s) ∨
      (s.off + s.pad + s.sum ≤ s.len ∧ lastFrame s ≤ Config.frameMax ∧
        vbrLast s = commit (vbrResult s) (storeLast s)) := by
  unfold vbrLast
  by_cases h1 : s.len < s.off + s.pad + s.sum
  · exact .inl ⟨.inl h1, if_pos h1⟩
  · by_cases h2 : Config.frameMax < lastFrame s
    · exact .inl ⟨.inr h2, by rw [if_neg h1, if_pos h2]⟩
    · exact .inr ⟨by omega, by omega, by rw [if_neg h1, if_neg h2]⟩

/-- The CBR dispatch: on to the split where the length is exact; else the unresolved record, the boundary request, or the
split at once. -/
theorem cbrDispatch_cases (s : State) :
    (s.w.lx = true ∧ cbrDispatch s = toSplit (s.w.len.setWidth 32) s) ∨
      (s.w.lx = false ∧ s.len < (publishRange s).w.bmin.toNat ∧ cbrDispatch s = commitUnresolved (publishRange s)) ∨
      (s.w.lx = false ∧ (publishRange s).w.bmax.toNat < s.len ∧ cbrDispatch s = needBoundary (publishRange s)) ∨
      (s.w.lx = false ∧ (publishRange s).w.bmin.toNat ≤ s.len ∧ s.len ≤ (publishRange s).w.bmax.toNat ∧
        cbrDispatch s = cbrFinish (toSplit (s.w.len.setWidth 32) (publishRange s))) := by
  unfold cbrDispatch
  by_cases hx : s.w.lx = true
  · exact .inl ⟨hx, if_pos hx⟩
  · have hx' : s.w.lx = false := by simpa using hx
    have hl : (publishRange s).len = s.len := rfl
    rw [if_neg hx, boundaryVerdict, hl]
    by_cases h1 : s.len < (publishRange s).w.bmin.toNat
    · exact .inr (.inl ⟨hx', h1, if_pos h1⟩)
    · by_cases h2 : (publishRange s).w.bmax.toNat < s.len
      · exact .inr (.inr (.inl ⟨hx', h2, by rw [if_neg h1, if_pos h2]⟩))
      · exact .inr (.inr (.inr ⟨hx', by omega, by omega, by rw [if_neg h1, if_neg h2]; rfl⟩))

/-- RESUME in WAIT_BND: the unresolved record, or the split. -/
theorem resume_cases (s : State) :
    (s.csr.bndTotal = 0#32 ∧ resume s = commitUnresolved { s with w := { s.w with t := 0#32 } }) ∨
      (s.csr.bndTotal ≠ 0#32 ∧ resume s = { s with w := { s.w with t := s.csr.bndTotal, state := .sCfin } }) := by
  by_cases h : s.csr.bndTotal = 0#32
  · exact .inl ⟨h, by simp [resume, h]⟩
  · exact .inr ⟨h, by simp [resume, h, State.goto]⟩

/-- Every meaning answers a next state. -/
theorem exec_total (i : Instr) (s : State) : ∃ t, exec i s = .next t := by
  cases i <;> exact ⟨_, rfl⟩

end Sys2Proof.Machine
end

