-- ==== Sys2Proof/Laws/PerInstr.lean ====
section
/-! SUPPORT. Decoding an encoded instruction gives it back, one lemma per constructor. -/
namespace Sys2Proof

theorem tocConfig_tocByte (config : BitVec 5) (stereo : Bool) (code : BitVec 2) :
    tocConfig (tocByte config stereo code) = config := by
  revert config stereo code; decide

theorem tocStereo_tocByte (config : BitVec 5) (stereo : Bool) (code : BitVec 2) :
    tocStereo (tocByte config stereo code) = stereo := by
  revert config stereo code; decide

theorem tocCode_tocByte (config : BitVec 5) (stereo : Bool) (code : BitVec 2) :
    tocCode (tocByte config stereo code) = code := by
  revert config stereo code; decide

theorem fcV_fcByte (v p : Bool) (m : BitVec 6) : fcV (fcByte v p m) = v := by
  revert v p m; decide

theorem fcP_fcByte (v p : Bool) (m : BitVec 6) : fcP (fcByte v p m) = p := by
  revert v p m; decide

theorem fcM_fcByte (v p : Bool) (m : BitVec 6) : fcM (fcByte v p m) = m := by
  revert v p m; decide

/-- The TOC byte is its three fields. -/
theorem tocByte_fields (b : Byte) : tocByte (tocConfig b) (tocStereo b) (tocCode b) = b := by
  revert b; decide

/-- The FC byte is its three fields. -/
theorem fcByte_fields (b : Byte) : fcByte (fcV b) (fcP b) (fcM b) = b := by
  revert b; decide

/-- A code-3 pair of bytes is read as its row. -/
theorem decode_code3 (config : BitVec 5) (stereo v p : Bool) (m : BitVec 6) :
    decode (.element .shape (code3Bytes config stereo v p m)) =
      .instr (decodeCode3 (tocByte config stereo 3#2) (fcByte v p m)) [] := by
  simp [decode, decodeElement, code3Bytes, decodeShape, decodeWindow, tocCode_tocByte]

/-- The CTRL word of its bits is read back. -/
theorem decodeCtrl_ctrlWord (start resume abort lenExact irqEn : Bool) :
    decodeCtrl (ctrlWord start resume abort lenExact irqEn) =
      if abort then .cmdAbort lenExact irqEn
      else if start then .cmdStart resume lenExact irqEn
      else if resume then .cmdResume lenExact irqEn
      else .wrCtrlCfg lenExact irqEn := by
  cases start <;> cases resume <;> cases abort <;> cases lenExact <;> cases irqEn <;> rfl

namespace Laws.RoundTrip

/-- The words of a well-formed instruction decode to it. -/
def Statement (i : Instr) : Prop := i.wf = true → decode (encode i) = .instr i []

theorem tocSplit (config : BitVec 5) (stereo : Bool) (code : BitVec 2) :
    Statement (.tocSplit config stereo code) := fun _ => by
  simp [encode, decode, decodeElement, tocConfig_tocByte, tocStereo_tocByte, tocCode_tocByte]

theorem cfgLut (config : BitVec 5) : Statement (.cfgLut config) := fun _ => by
  simp [encode, decode, decodeElement, tocConfig_tocByte]

theorem pktC3M0 (config : BitVec 5) (stereo v p : Bool) : Statement (.pktC3M0 config stereo v p) := fun _ => by
  simp [encode, decode_code3, decodeCode3, tocConfig_tocByte, tocStereo_tocByte, fcV_fcByte, fcP_fcByte, fcM_fcByte]

theorem pktC3Mbig49 (config : BitVec 5) (stereo v p : Bool) :
    Statement (.pktC3Mbig49 config stereo v p) := fun _ => by
  simp [encode, decode_code3, decodeCode3, tocConfig_tocByte, tocStereo_tocByte, fcV_fcByte, fcP_fcByte, fcM_fcByte]

/-- The row of a code-3 pair whose frame count is in a range, by the range. -/
theorem decode_code3_big (config : BitVec 5) (stereo v p : Bool) (m : BitVec 6) (h : 50 ≤ m.toNat) :
    decode (.element .shape (code3Bytes config stereo v p m)) =
      .instr
        (if m.toNat ≤ 51 then .pktC3Mbig50to51 config stereo v p m
         else if m.toNat ≤ 55 then .pktC3Mbig52to55 config stereo v p m
         else .pktC3Mbig56to63 config stereo v p m) [] := by
  have h0 : m.toNat ≠ 0 := by omega
  have h1 : ¬ m.toNat ≤ 48 := by omega
  have h2 : m.toNat ≠ 49 := by omega
  simp only [decode_code3, decodeCode3, tocConfig_tocByte, tocStereo_tocByte, fcV_fcByte, fcP_fcByte, fcM_fcByte,
    if_neg h0, if_neg h1, if_neg h2]

theorem pktC3Mbig50to51 (config : BitVec 5) (stereo v p : Bool) (m : BitVec 6) :
    Statement (.pktC3Mbig50to51 config stereo v p m) := fun h => by
  simp only [Instr.wf, mInRange, Bool.and_eq_true, decide_eq_true_eq] at h
  rw [encode, decode_code3_big _ _ _ _ _ h.1, if_pos h.2]

theorem pktC3Mbig52to55 (config : BitVec 5) (stereo v p : Bool) (m : BitVec 6) :
    Statement (.pktC3Mbig52to55 config stereo v p m) := fun h => by
  simp only [Instr.wf, mInRange, Bool.and_eq_true, decide_eq_true_eq] at h
  rw [encode, decode_code3_big _ _ _ _ _ (by omega), if_neg (by omega), if_pos h.2]

theorem pktC3Mbig56to63 (config : BitVec 5) (stereo v p : Bool) (m : BitVec 6) :
    Statement (.pktC3Mbig56to63 config stereo v p m) := fun h => by
  simp only [Instr.wf, mInRange, Bool.and_eq_true, decide_eq_true_eq] at h
  rw [encode, decode_code3_big _ _ _ _ _ (by omega), if_neg (by omega), if_neg (by omega)]

theorem pktC0 (config : BitVec 5) (stereo : Bool) : Statement (.pktC0 config stereo) := fun _ => by
  simp [encode, decode, decodeElement, decodeShape, decodeWindow, tocCode_tocByte, tocConfig_tocByte,
    tocStereo_tocByte]

theorem pktC1 (config : BitVec 5) (stereo : Bool) : Statement (.pktC1 config stereo) := fun _ => by
  simp [encode, decode, decodeElement, decodeShape, decodeWindow, tocCode_tocByte, tocConfig_tocByte,
    tocStereo_tocByte]

theorem pktC2 (config : BitVec 5) (stereo : Bool) : Statement (.pktC2 config stereo) := fun _ => by
  simp [encode, decode, decodeElement, decodeShape, decodeWindow, tocCode_tocByte, tocConfig_tocByte,
    tocStereo_tocByte]

theorem pktC3Vbr (config : BitVec 5) (stereo p : Bool) (m : BitVec 6) :
    Statement (.pktC3Vbr config stereo p m) := fun h => by
  simp only [Instr.wf, mInRange, Bool.and_eq_true, decide_eq_true_eq] at h
  have h0 : m.toNat ≠ 0 := by omega
  have h48 : m.toNat ≤ 48 := h.2
  simp only [encode, decode_code3, decodeCode3, tocConfig_tocByte, tocStereo_tocByte, fcV_fcByte, fcP_fcByte,
    fcM_fcByte, if_neg h0, if_pos h48, if_true]

theorem pktC3Cbr (config : BitVec 5) (stereo p : Bool) (m : BitVec 6) :
    Statement (.pktC3Cbr config stereo p m) := fun h => by
  simp only [Instr.wf, mInRange, Bool.and_eq_true, decide_eq_true_eq] at h
  have h0 : m.toNat ≠ 0 := by omega
  have h48 : m.toNat ≤ 48 := h.2
  simp only [encode, decode_code3, decodeCode3, tocConfig_tocByte, tocStereo_tocByte, fcV_fcByte, fcP_fcByte,
    fcM_fcByte, if_neg h0, if_pos h48, Bool.false_eq_true, if_false]

theorem flZero : Statement .flZero := fun _ => rfl

theorem fl2b (b0 b1 : Byte) : Statement (.fl2b b0 b1) := fun h => by
  simp only [Instr.wf, decide_eq_true_eq] at h
  have h0 : b0 ≠ 0#8 := by rintro rfl; simp at h
  simp [encode, decode, decodeElement, decodeFl, h0, flIsTwo, h]

theorem fl1b (b0 : Byte) : Statement (.fl1b b0) := fun h => by
  simp only [Instr.wf, Bool.and_eq_true, decide_eq_true_eq] at h
  have h0 : b0 ≠ 0#8 := by rintro rfl; simp at h
  have h2 : ¬ 252 ≤ b0.toNat := by omega
  simp [encode, decode, decodeElement, decodeFl, h0, flIsTwo, h2]

theorem padCont : Statement .padCont := fun _ => rfl

theorem padTerm (b : Byte) : Statement (.padTerm b) := fun h => by
  simp only [Instr.wf, decide_eq_true_eq] at h
  have h0 : b ≠ 255#8 := by rintro rfl; simp at h
  simp [encode, decode, decodeElement, decodePad, h0]

theorem cmdStart (resume lenExact irqEn : Bool) : Statement (.cmdStart resume lenExact irqEn) := fun _ => by
  simp [encode, csrWriteOf, decode, decodeCsr, CsrAccess.supported, decodeCsrWrite, decodeCtrl_ctrlWord]

theorem cmdResume (lenExact irqEn : Bool) : Statement (.cmdResume lenExact irqEn) := fun _ => by
  simp [encode, csrWriteOf, decode, decodeCsr, CsrAccess.supported, decodeCsrWrite, decodeCtrl_ctrlWord]

theorem cmdAbort (lenExact irqEn : Bool) : Statement (.cmdAbort lenExact irqEn) := fun _ => by
  simp [encode, csrWriteOf, decode, decodeCsr, CsrAccess.supported, decodeCsrWrite, decodeCtrl_ctrlWord]

theorem wrCtrlCfg (lenExact irqEn : Bool) : Statement (.wrCtrlCfg lenExact irqEn) := fun _ => by
  simp [encode, csrWriteOf, decode, decodeCsr, CsrAccess.supported, decodeCsrWrite, decodeCtrl_ctrlWord]

theorem cmdIrqAck : Statement .cmdIrqAck := fun _ => rfl

theorem wrBufBase (data : Word) : Statement (.wrBufBase data) := fun _ => by
  simp [encode, csrWriteOf, decode, decodeCsr, CsrAccess.supported, decodeCsrWrite]

theorem wrBufLen (data : Word) : Statement (.wrBufLen data) := fun _ => by
  simp [encode, csrWriteOf, decode, decodeCsr, CsrAccess.supported, decodeCsrWrite]

theorem wrBndTotal (data : Word) : Statement (.wrBndTotal data) := fun _ => by
  simp [encode, csrWriteOf, decode, decodeCsr, CsrAccess.supported, decodeCsrWrite]

theorem rdCsr (offset : BitVec 7) : Statement (.rdCsr offset) := fun _ => by
  revert offset; decide

end Laws.RoundTrip

end Sys2Proof
end

