-- ==== Sys2Proof/Laws/Step.lean ====
section
/-! SUPPORT. The step by its cases: the engine's turn, or the next host operation. -/
namespace Sys2Proof.Machine

/-- With no host operation to come, the engine takes the step. -/
theorem step_engine (s : State) (h : s.host = []) : step s = engineStep s := by
  simp [step, h]

/-- The next host operation is taken off the list and carried out. -/
theorem step_host (s : State) (op : HostOp) (rest : List HostOp) (h : s.host = op :: rest) :
    step s = hostStep op { s with host := rest } := by
  simp [step, h]

/-- An engine step by what the engine finds. -/
theorem engineStep_cases (s : State) :
    (fetch s = .quiet ∧ engineStep s = .next s) ∨
      (∃ e, fetch s = .error e ∧ engineStep s = .next (raiseError e s)) ∨
      (∃ i, fetch s = .run i ∧ engineStep s = exec i s) ∨
      (∃ i j, fetch s = .runBoth i j ∧ engineStep s = andThen (exec i s) (exec j)) := by
  unfold engineStep
  cases h : fetch s with
  | quiet => exact .inl ⟨rfl, rfl⟩
  | error e => exact .inr (.inl ⟨e, rfl, rfl⟩)
  | run i => exact .inr (.inr (.inl ⟨i, rfl, rfl⟩))
  | runBoth i j => exact .inr (.inr (.inr ⟨i, j, rfl, rfl⟩))

/-- An engine step always answers a next state. -/
theorem engineStep_total (s : State) : ∃ t, engineStep s = .next t := by
  obtain ⟨-, h⟩ | ⟨e, -, h⟩ | ⟨i, -, h⟩ | ⟨i, j, -, h⟩ := engineStep_cases s
  · exact ⟨_, h⟩
  · exact ⟨_, h⟩
  · obtain ⟨t, ht⟩ := exec_total i s
    exact ⟨t, h.trans ht⟩
  · obtain ⟨t, ht⟩ := exec_total i s
    obtain ⟨u, hu⟩ := exec_total j t
    exact ⟨u, by rw [h, ht]; exact hu⟩

/-- `k + 1` steps are one step and then `k` (Host/Core.lean). -/
theorem run_succ (k : Nat) (s t : State) (h : step s = .next t) : Sys2Proof.core.run (k + 1) s = Sys2Proof.core.run k t := by
  simp only [Host.Core.run]
  rw [show Sys2Proof.core.step s = .next t from h]

end Sys2Proof.Machine
end

