-- ==== Sys2Proof/Laws/Routines.lean ====
section
/-! SUPPORT. What the firmware routines can do: each changes the firmware's variables and the operations to come, and nothing
of the block, and the block's steps do not see them; the words of STATUS, HDR and PKT read back as the fields they were made
of. -/
namespace Sys2Proof.Machine

/-! ## Register words read back (44_host_interface R259; 40_toc_config R124) -/

@[simp] theorem Mode.ofCode_code (m : Mode) : Mode.ofCode m.code = m := by cases m <;> rfl

@[simp] theorem Bandwidth.ofCode_code (b : Bandwidth) : Bandwidth.ofCode b.code = b := by cases b <;> rfl

@[simp] theorem Duration.ofCode_code (d : Duration) : Duration.ofCode d.code = d := by cases d <;> rfl

theorem Mode.code_lt (m : Mode) : m.code < 4 := by cases m <;> decide

theorem Bandwidth.code_lt (b : Bandwidth) : b.code < 8 := by cases b <;> decide

theorem Duration.code_lt (d : Duration) : d.code < 8 := by cases d <;> decide

/-- A bit of a number as a word. -/
theorem ofNat_getElem (n w i : Nat) (h : i < w) : (BitVec.ofNat w n)[i] = n.testBit i := by
  rw [← BitVec.getLsbD_eq_getElem, BitVec.getLsbD_ofNat]; simp [h]

/-- A number below `2^w` has no bit from `w` on. -/
theorem testBit_high (n w i : Nat) (h : n < 2 ^ w) (hi : w ≤ i) : n.testBit i = false :=
  Nat.testBit_lt_two_pow (Nat.lt_of_lt_of_le h (Nat.pow_le_pow_right (by omega) hi))

/-- `PKT` reads back. -/
@[simp] theorem Pkt.ofWord_word (p : Pkt) : Pkt.ofWord p.word = p := by
  obtain ⟨n, a, b, c⟩ := p
  simp only [Pkt.ofWord, Pkt.word, Pkt.mk.injEq]
  refine ⟨?_, by simp, by simp, by simp⟩
  ext i hi
  simp [show i < 8 by omega, show i < 9 by omega, show i < 10 by omega, show i < 32 by omega, hi]

/-- `HDR` reads back. -/
@[simp] theorem Hdr.ofWord_word (h : Hdr) : Hdr.ofWord h.word = h := by
  obtain ⟨toc, ⟨config, stereo, code⟩, ⟨mode, bw, dur⟩, fc⟩ := h
  have hm := fun i => testBit_high mode.code 2 i mode.code_lt
  have hb := fun i => testBit_high bw.code 3 i bw.code_lt
  have hd := fun i => testBit_high dur.code 3 i dur.code_lt
  have em : (Hdr.word ⟨toc, ⟨config, stereo, code⟩, ⟨mode, bw, dur⟩, fc⟩).extractLsb' 16 2 = BitVec.ofNat 2 mode.code := by
    ext i hi
    simp (disch := omega) [Hdr.word, BitVec.getLsbD_of_ge, ofNat_getElem, show ¬ 16 + i < 8 by omega,
      show ¬ 16 + i < 13 by omega, show ¬ 16 + i < 14 by omega, show ¬ 16 + i < 16 by omega,
      show 16 + i < 18 by omega, show 16 + i < 21 by omega, show 16 + i < 24 by omega]
  have eb : (Hdr.word ⟨toc, ⟨config, stereo, code⟩, ⟨mode, bw, dur⟩, fc⟩).extractLsb' 18 3 = BitVec.ofNat 3 bw.code := by
    ext i hi
    simp (disch := omega) [Hdr.word, BitVec.getLsbD_of_ge, ofNat_getElem, hm, show ¬ 18 + i < 8 by omega,
      show ¬ 18 + i < 13 by omega, show ¬ 18 + i < 14 by omega, show ¬ 18 + i < 16 by omega,
      show ¬ 18 + i < 18 by omega, show 18 + i < 21 by omega, show 18 + i < 24 by omega]
  have ed : (Hdr.word ⟨toc, ⟨config, stereo, code⟩, ⟨mode, bw, dur⟩, fc⟩).extractLsb' 21 3 = BitVec.ofNat 3 dur.code := by
    ext i hi
    simp (disch := omega) [Hdr.word, BitVec.getLsbD_of_ge, ofNat_getElem, hm, hb, show ¬ 21 + i < 8 by omega,
      show ¬ 21 + i < 13 by omega, show ¬ 21 + i < 14 by omega, show ¬ 21 + i < 16 by omega,
      show ¬ 21 + i < 18 by omega, show ¬ 21 + i < 21 by omega, show 21 + i < 24 by omega]
  simp only [Hdr.ofWord, em, eb, ed, Hdr.mk.injEq, TocFields.mk.injEq, LutRow.mk.injEq]
  refine ⟨?_, ⟨?_, ?_, ?_⟩, ⟨by cases mode <;> rfl, by cases bw <;> rfl, by cases dur <;> rfl⟩, ?_⟩
  · ext i hi
    simp [Hdr.word, show i < 8 by omega, show i < 13 by omega, show i < 14 by omega, show i < 16 by omega,
      show i < 18 by omega, show i < 21 by omega, show i < 24 by omega, show i < 32 by omega]
  · ext i hi
    simp (disch := omega) [Hdr.word, BitVec.getLsbD_of_ge, show ¬ 8 + i < 8 by omega, show 8 + i < 13 by omega,
      show 8 + i < 14 by omega, show 8 + i < 16 by omega, show 8 + i < 18 by omega, show 8 + i < 21 by omega,
      show 8 + i < 24 by omega]
  · simp [Hdr.word]
  · ext i hi
    simp (disch := omega) [Hdr.word, BitVec.getLsbD_of_ge, show ¬ 14 + i < 8 by omega,
      show ¬ 14 + i < 13 by omega, show ¬ 14 + i < 14 by omega, show 14 + i < 16 by omega,
      show 14 + i < 18 by omega, show 14 + i < 21 by omega, show 14 + i < 24 by omega]
  · ext i hi
    simp (disch := omega) [Hdr.word, BitVec.getLsbD_of_ge, ofNat_getElem, hm, hb, hd,
      show ¬ 24 + i < 8 by omega, show ¬ 24 + i < 13 by omega, show ¬ 24 + i < 14 by omega,
      show ¬ 24 + i < 16 by omega, show ¬ 24 + i < 18 by omega, show ¬ 24 + i < 21 by omega,
      show ¬ 24 + i < 24 by omega]

/-- `STATUS.ERR` reads back. -/
@[simp] theorem statusErr_statusRead (s : State) : statusErr s.statusRead = s.csr.err := by
  have hv : s.visible.code < 4 := by cases s.visible <;> decide
  have h1 := Bool.toNat_lt s.csr.resultValid
  have h2 := Bool.toNat_lt s.csr.unresolved
  have h3 := Bool.toNat_lt s.csr.irqPend
  have h4 : errCode s.csr.err < 8 := by
    cases s.csr.err with
    | none => decide
    | some e => cases e <;> decide
  have h : (s.statusRead.extractLsb' 8 3).toNat = errCode s.csr.err := by
    simp only [State.statusRead, BitVec.extractLsb'_toNat, BitVec.toNat_ofNat, Nat.shiftRight_eq_div_pow]
    omega
  rw [statusErr, h]
  cases s.csr.err with
  | none => rfl
  | some e => cases e <;> rfl

/-! ## Frames -/

/-- The block, memory and the platform are the same: at most the firmware's variables and the operations to come differ. -/
def OnlyFirmware (s t : State) : Prop :=
  t.csr = s.csr ∧ t.w = s.w ∧ t.mem = s.mem ∧ t.rdata = s.rdata ∧ t.platform = s.platform

theorem onlyFirmware_refl (s : State) : OnlyFirmware s s := ⟨rfl, rfl, rfl, rfl, rfl⟩

theorem fwDecodePacketOp_frame (a : Word) (n : Nat) (s : State) : OnlyFirmware s (fwDecodePacketOp a n s) := by
  unfold fwDecodePacketOp; split <;> exact onlyFirmware_refl s

theorem fwAnswerOp_frame (s : State) : OnlyFirmware s (fwAnswerOp s) := by
  unfold fwAnswerOp; split <;> exact onlyFirmware_refl s

theorem fwReturnOp_frame (s : State) : OnlyFirmware s (fwReturnOp s) := by
  unfold fwReturnOp; split <;> exact onlyFirmware_refl s

theorem fwFramesOp_frame (s : State) : OnlyFirmware s (fwFramesOp s) := onlyFirmware_refl s

theorem fwRecordOp_frame (s : State) : OnlyFirmware s (fwRecordOp s) := onlyFirmware_refl s

theorem scanStreamOp_frame (a : Word) (L cur : Nat) (s : State) : OnlyFirmware s (scanStreamOp a L cur s) :=
  onlyFirmware_refl s

theorem scanOp_frame (a : Word) (L : Nat) (s : State) : OnlyFirmware s (scanOp a L s) := by
  unfold scanOp; split <;> exact onlyFirmware_refl s

theorem scanFound_frame (a : Word) (L : Nat) (p : Packet) (s : State) : OnlyFirmware s (scanFound a L p s) := by
  unfold scanFound; dsimp only; split <;> exact onlyFirmware_refl s

theorem scanNextOp_frame (a : Word) (L : Nat) (s : State) : OnlyFirmware s (scanNextOp a L s) := by
  unfold scanNextOp
  split
  · exact onlyFirmware_refl s
  · exact scanFound_frame a L _ s
  · exact onlyFirmware_refl s

theorem probeOp_frame (a : Word) (L q left : Nat) (s : State) : OnlyFirmware s (probeOp a L q left s) := by
  unfold probeOp; split <;> exact onlyFirmware_refl s

theorem probeNextOp_frame (a : Word) (L q left : Nat) (s : State) : OnlyFirmware s (probeNextOp a L q left s) := by
  unfold probeNextOp; split <;> exact onlyFirmware_refl s

theorem sweepNextOp_frame (a : Word) (L : Nat) (s : State) : OnlyFirmware s (sweepNextOp a L s) := by
  unfold sweepNextOp; split <;> exact onlyFirmware_refl s

/-- A CSR read by the firmware keeps the word it read and changes nothing else (20_memory R79). -/
theorem fwLoadOp_word (offset : BitVec 9) (s : State) (h : offset.toNat % 4 = 0) :
    fwLoadOp offset s = .next { s with
      rdata := s.csrRead offset.toNat, fw := { s.fw with words := s.fw.words ++ [s.csrRead offset.toNat] } } := by
  have hd : decode (.csr { write := false, offset := offset, width := .word, data := 0#32 })
      = .instr (.rdCsr (offset.extractLsb' 2 7)) [] := by
    simp [decode, decodeCsr, CsrAccess.supported, h]
  have ho : 4 * (offset.extractLsb' 2 7).toNat = offset.toNat := by
    have := offset.isLt
    simp only [BitVec.extractLsb'_toNat, Nat.shiftRight_eq_div_pow]
    omega
  simp only [fwLoadOp, csrPort, hd, exec, execRdCsr, ho, andThen, State.setFw]

/-! ## The probe (R262) -/

/-- A successful probe lies at or after its start. -/
theorem probeFrom_ge (strong : Bool) (B : Nat → Option Byte) (L fuel q r : Nat) (h : probeFrom strong B L fuel q = some r) :
    q ≤ r := by
  induction fuel generalizing q with
  | zero => simp [probeFrom] at h
  | succ fuel ih =>
    unfold probeFrom at h
    split at h
    · simp at h
    · split at h
      · exact Nat.le_of_eq (Option.some.inj h)
      · exact Nat.le_of_succ_le (ih _ h)

/-- The first success in the window ends the probe. -/
theorem probeFrom_first (strong : Bool) (B : Nat → Option Byte) (L fuel est q : Nat) (p : Packet) (h1 : est ≤ q)
    (h2 : q < est + fuel) (hL : q < L) (hq : fwDecodePacket strong (fromOffset B q) (L - q) = .packet p)
    (hn : ∀ q', est ≤ q' → q' < q → ∃ e, fwDecodePacket strong (fromOffset B q') (L - q') = .error e) :
    probeFrom strong B L fuel est = some q := by
  induction fuel generalizing est with
  | zero => omega
  | succ fuel ih =>
    unfold probeFrom
    rw [if_neg (by omega)]
    by_cases he : est = q
    · subst he; rw [hq]
    · obtain ⟨e, h⟩ := hn est (Nat.le_refl _) (by omega)
      rw [h]
      exact ih (est + 1) (by omega) (by omega) fun q' a b => hn q' (by omega) b

/-- Errors at every position of the window: no success. -/
theorem probeFrom_none (strong : Bool) (B : Nat → Option Byte) (L fuel est : Nat)
    (h : ∀ q, est ≤ q → q < est + fuel → q < L → ∃ e, fwDecodePacket strong (fromOffset B q) (L - q) = .error e) :
    probeFrom strong B L fuel est = none := by
  induction fuel generalizing est with
  | zero => rfl
  | succ fuel ih =>
    unfold probeFrom
    split
    · rfl
    · obtain ⟨e, he⟩ := h est (Nat.le_refl _) (by omega) (by omega)
      rw [he]
      exact ih (est + 1) fun q a b c => h q (by omega) (by omega) c

/-! ## The block does not see the host: its steps commute with a change of what stands outside it -/

/-- Another host: the operations to come and the firmware's variables replaced. -/
def State.withHostSide (s : State) (ops : List HostOp) (fw : Firmware) : State := { s with host := ops, fw := fw }

theorem fetch_withHostSide (s : State) (ops : List HostOp) (fw : Firmware) : fetch (s.withHostSide ops fw) = fetch s := rfl

theorem finish_withHostSide (x : Except ErrKind Result) (s : State) (ops : List HostOp) (fw : Firmware) :
    finish x (s.withHostSide ops fw) = (finish x s).withHostSide ops fw := by cases x <;> rfl

theorem finishPlain_withHostSide (x : Except ErrKind Result) (s : State) (ops : List HostOp) (fw : Firmware) :
    finishPlain x (s.withHostSide ops fw) = (finishPlain x s).withHostSide ops fw := by cases x <;> rfl

theorem latchVerdict_withHostSide (a : FlVerdict) (s : State) (ops : List HostOp) (fw : Firmware) :
    (s.withHostSide ops fw).latchVerdict a = (s.latchVerdict a).withHostSide ops fw := by cases a <;> rfl

theorem afterPadding_withHostSide (s : State) (ops : List HostOp) (fw : Firmware) :
    afterPadding (s.withHostSide ops fw) = (afterPadding s).withHostSide ops fw := by
  unfold afterPadding
  repeat rw [apply_ite (fun t : State => t.withHostSide ops fw)]
  rfl

theorem c3Header_withHostSide (fc : Byte) (s : State) (ops : List HostOp) (fw : Firmware) :
    c3Header fc (s.withHostSide ops fw) = (c3Header fc s).withHostSide ops fw := by
  unfold c3Header
  rw [apply_ite (fun t : State => t.withHostSide ops fw), ← afterPadding_withHostSide]
  rfl

theorem vlenStore_withHostSide (size n : Nat) (s : State) (ops : List HostOp) (fw : Firmware) :
    vlenStore size n (s.withHostSide ops fw) = (vlenStore size n s).withHostSide ops fw := by
  unfold vlenStore
  dsimp only
  rw [apply_ite (fun t : State => t.withHostSide ops fw)]
  rfl

theorem flReturn_withHostSide (size n : Nat) (s : State) (ops : List HostOp) (fw : Firmware) :
    flReturn size n (s.withHostSide ops fw) = (flReturn size n s).withHostSide ops fw := by
  unfold flReturn
  rw [apply_ite (fun t : State => t.withHostSide ops fw), ← vlenStore_withHostSide]
  rfl

theorem vbrLast_withHostSide (s : State) (ops : List HostOp) (fw : Firmware) :
    vbrLast (s.withHostSide ops fw) = (vbrLast s).withHostSide ops fw := by
  unfold vbrLast
  repeat rw [apply_ite (fun t : State => t.withHostSide ops fw)]
  rfl

theorem cbrFinish_withHostSide (s : State) (ops : List HostOp) (fw : Firmware) :
    cbrFinish (s.withHostSide ops fw) = (cbrFinish s).withHostSide ops fw := finish_withHostSide _ _ _ _

theorem cbrDispatch_withHostSide (s : State) (ops : List HostOp) (fw : Firmware) :
    cbrDispatch (s.withHostSide ops fw) = (cbrDispatch s).withHostSide ops fw := by
  unfold cbrDispatch boundaryVerdict
  repeat rw [apply_ite (fun t : State => t.withHostSide ops fw)]
  rw [← cbrFinish_withHostSide]
  rfl

theorem c2First_withHostSide (s : State) (ops : List HostOp) (fw : Firmware) :
    c2First (s.withHostSide ops fw) = (c2First s).withHostSide ops fw := by
  unfold c2First
  rw [show fldec (s.withHostSide ops fw).len (s.withHostSide ops fw).B 1 = fldec s.len s.B 1 from rfl]
  cases fldec s.len s.B 1 <;> rfl

theorem resumeIfWaiting_withHostSide (s : State) (ops : List HostOp) (fw : Firmware) :
    resumeIfWaiting (s.withHostSide ops fw) = (resumeIfWaiting s).withHostSide ops fw := by
  unfold resumeIfWaiting resume
  repeat rw [apply_ite (fun t : State => t.withHostSide ops fw)]
  rfl

/-- Every meaning, on the block's side alone. -/
theorem exec_withHostSide (i : Instr) (s t : State) (ops : List HostOp) (fw : Firmware) (h : exec i s = .next t) :
    exec i (s.withHostSide ops fw) = .next (t.withHostSide ops fw) := by
  cases i <;> simp only [exec] at h ⊢
  case pktC0 =>
    cases h
    unfold execPktC0
    rw [← finishPlain_withHostSide, apply_ite (fun t : State => t.withHostSide ops fw), ← latchVerdict_withHostSide]
    rfl
  case pktC1 => cases h; exact congrArg Host.Outcome.next (by rw [← finishPlain_withHostSide, ← latchVerdict_withHostSide]; rfl)
  case pktC2 =>
    cases h
    exact congrArg Host.Outcome.next (by
      rw [apply_ite (fun t : State => t.withHostSide ops fw), ← c2First_withHostSide]
      unfold c2Second
      rw [← finishPlain_withHostSide, ← latchVerdict_withHostSide]; rfl)
  case pktC3Vbr =>
    cases h
    exact congrArg Host.Outcome.next (by
      rw [apply_ite (fun t : State => t.withHostSide ops fw), ← vbrLast_withHostSide, ← c3Header_withHostSide]; rfl)
  case pktC3Cbr =>
    cases h
    exact congrArg Host.Outcome.next (by
      repeat rw [apply_ite (fun t : State => t.withHostSide ops fw)]
      rw [← cbrDispatch_withHostSide, ← cbrFinish_withHostSide, ← c3Header_withHostSide]; rfl)
  case flZero => cases h; exact congrArg Host.Outcome.next (flReturn_withHostSide _ _ _ _ _)
  case fl2b => cases h; exact congrArg Host.Outcome.next (flReturn_withHostSide _ _ _ _ _)
  case fl1b => cases h; exact congrArg Host.Outcome.next (flReturn_withHostSide _ _ _ _ _)
  case padTerm => cases h; exact congrArg Host.Outcome.next (by rw [← afterPadding_withHostSide]; rfl)
  case cmdStart =>
    cases h
    exact congrArg Host.Outcome.next (by
      repeat rw [apply_ite (fun t : State => t.withHostSide ops fw)]
      rw [← resumeIfWaiting_withHostSide]; rfl)
  case cmdResume => cases h; exact congrArg Host.Outcome.next (by rw [← resumeIfWaiting_withHostSide]; rfl)
  all_goals cases h; rfl

/-- An engine step, on the block's side alone: what holds of the engine with no host operation to come holds beside any. -/
theorem engineStep_withHostSide (s t : State) (ops : List HostOp) (fw : Firmware) (h : engineStep s = .next t) :
    engineStep (s.withHostSide ops fw) = .next (t.withHostSide ops fw) := by
  unfold engineStep at h ⊢
  rw [fetch_withHostSide]
  cases hf : fetch s with
  | quiet => rw [hf] at h; cases h; rfl
  | error e => rw [hf] at h; cases h; rfl
  | run i => rw [hf] at h; exact exec_withHostSide i s t ops fw h
  | runBoth i j =>
    rw [hf] at h
    obtain ⟨u, hu⟩ := exec_total i s
    simp only [hu, andThen] at h
    simp only [exec_withHostSide i s u ops fw hu, andThen]
    exact exec_withHostSide j u t ops fw h

end Sys2Proof.Machine
end

