-- ==== Sys2Proof/Tests/Slice0.lean ====
section
/-! SUPPORT. Tests: ill-formed terms are refused; a written-out word of every constructor decodes; single-step vectors whose
expected values are those of 95_test_vectors and of the rules' own examples; and, for every obligation with hypotheses, a
state and operands that meet them, at the boundary values of each clause. -/
namespace Sys2Proof.Tests
open Sys2Proof.Machine

/-! ## Helpers -/

/-- The memory that holds `bytes` from address `a` on. -/
def memOf : Nat → List Byte → Memory
  | _, [] => []
  | a, b :: bytes => Memory.write (memOf (a + 1) bytes) a b

/-- The engine at `st`, inside a packet with these TOC and FC bytes, its buffer `bytes` at address 0. -/
def atState (st : EngineState) (toc fc : Byte) (off : Nat) (bytes : List Byte) : State :=
  { State.reset with
    mem := memOf 0 bytes
    w := { State.reset.w with
      state := st, toc := toc, fields := tocSplit toc, lut := cfgLut (tocConfig toc), fc := fc
      off := BitVec.ofNat 24 off, len := BitVec.ofNat 24 bytes.length } }

/-- Another buffer length. -/
def withLen (n : Nat) (s : State) : State := { s with w := { s.w with len := BitVec.ofNat 24 n } }

/-- Another list of host operations. -/
def withHost (ops : List HostOp) (s : State) : State := { s with host := ops }

/-- A bus error at address `a`. -/
def withHole (a : Nat) (s : State) : State := { s with platform := { s.platform with holes := [⟨a, 1⟩] } }

/-- A property of the next state; false where there is none. -/
def after (x : Out) (p : State → Bool) : Bool :=
  match x with
  | .next t => p t
  | .fault _ => false
  | .refused _ => false

/-- Is the outcome this fault? -/
def isFault (x : Out) (f : Fault) : Bool :=
  match x with
  | .next _ => false
  | .fault g => decide (g = f)
  | .refused _ => false

/-- The first `n` FRAME_SIZE registers. -/
def sizesOf (t : State) (n : Nat) : List Nat := (List.range n).map fun k => (t.csrRead (0x100 + 4 * k)).toNat

/-! ## Well-formedness: each check refuses an ill-formed term -/

theorem test_wf_mbig : (Instr.pktC3Mbig50to51 0#5 false false false 49#6).wf = false ∧
    (Instr.pktC3Mbig50to51 0#5 false false false 52#6).wf = false ∧
    (Instr.pktC3Mbig52to55 0#5 false false false 51#6).wf = false ∧
    (Instr.pktC3Mbig52to55 0#5 false false false 56#6).wf = false ∧
    (Instr.pktC3Mbig56to63 0#5 false false false 55#6).wf = false := by decide

theorem test_wf_frameCount : (Instr.pktC3Vbr 0#5 false false 0#6).wf = false ∧
    (Instr.pktC3Vbr 0#5 false false 49#6).wf = false ∧ (Instr.pktC3Cbr 0#5 false false 0#6).wf = false ∧
    (Instr.pktC3Cbr 0#5 false false 49#6).wf = false := by decide

theorem test_wf_frameLength : (Instr.fl2b 251#8 0#8).wf = false ∧ (Instr.fl1b 0#8).wf = false ∧
    (Instr.fl1b 252#8).wf = false := by decide

theorem test_wf_padding : (Instr.padTerm 255#8).wf = false := by decide

theorem test_reset_memory_wf : Memory.wf State.reset.mem = true := by decide

/-! ## Decoding: words written out from 30_encoding, field by field -/

/-- 0x5E = 01011 1 10: config 11, stereo, code 2 (95_test_vectors 2.1). -/
theorem test_decode_toc : decode (.element .toc [0b01011110#8]) = .instr (.tocSplit 11#5 true 2#2) [] ∧
    decode (.element .lut [0b01011110#8]) = .instr (.cfgLut 11#5) [] := by decide

/-- Codes 0, 1, 2 take the TOC byte alone; what follows is left. -/
theorem test_decode_plain_shapes : decode (.element .shape [0b11111000#8, 0x33#8]) = .instr (.pktC0 31#5 false) [0x33#8] ∧
    decode (.element .shape [0b10100101#8]) = .instr (.pktC1 20#5 true) [] ∧
    decode (.element .shape [0b11100010#8]) = .instr (.pktC2 28#5 false) [] := by decide

/-- TOC 0x03, FC = v p M. -/
theorem test_decode_code3 : decode (.element .shape [0x03#8, 0b11000011#8]) = .instr (.pktC3Vbr 0#5 false true 3#6) [] ∧
    decode (.element .shape [0x03#8, 0b10110000#8]) = .instr (.pktC3Vbr 0#5 false false 48#6) [] ∧
    decode (.element .shape [0x0F#8, 0b01000010#8]) = .instr (.pktC3Cbr 1#5 true true 2#6) [] ∧
    decode (.element .shape [0x03#8, 0b00000001#8]) = .instr (.pktC3Cbr 0#5 false false 1#6) [] := by decide

/-- The illegal frame counts 0, 49, 50, 51, 52, 55, 56 and 63 (R99). -/
theorem test_decode_illegal : decode (.element .shape [0x03#8, 0b01000000#8]) = .instr (.pktC3M0 0#5 false false true) [] ∧
    decode (.element .shape [0x03#8, 0b00110001#8]) = .instr (.pktC3Mbig49 0#5 false false false) [] ∧
    decode (.element .shape [0x03#8, 0b10110010#8]) = .instr (.pktC3Mbig50to51 0#5 false true false 50#6) [] ∧
    decode (.element .shape [0x03#8, 0b10110011#8]) = .instr (.pktC3Mbig50to51 0#5 false true false 51#6) [] ∧
    decode (.element .shape [0x03#8, 0b00110100#8]) = .instr (.pktC3Mbig52to55 0#5 false false false 52#6) [] ∧
    decode (.element .shape [0x03#8, 0b00110111#8]) = .instr (.pktC3Mbig52to55 0#5 false false false 55#6) [] ∧
    decode (.element .shape [0x03#8, 0b00111000#8]) = .instr (.pktC3Mbig56to63 0#5 false false false 56#6) [] ∧
    decode (.element .shape [0x03#8, 0b10111111#8]) = .instr (.pktC3Mbig56to63 0#5 false true false 63#6) [] := by decide

/-- FL codes at their edges: 0, 1, 251, 252 (R94). -/
theorem test_decode_fl : decode (.element .fl [0x00#8, 0x09#8]) = .instr .flZero [0x09#8] ∧
    decode (.element .fl [0x01#8]) = .instr (.fl1b 1#8) [] ∧ decode (.element .fl [0xFB#8]) = .instr (.fl1b 251#8) [] ∧
    decode (.element .fl [0b11111100#8, 0x00#8]) = .instr (.fl2b 252#8 0#8) [] := by decide

/-- PAD bytes at their edges (R96). -/
theorem test_decode_pad : decode (.element .pad [0xFF#8]) = .instr .padCont [] ∧
    decode (.element .pad [0xFE#8]) = .instr (.padTerm 254#8) [] ∧
    decode (.element .pad [0x00#8]) = .instr (.padTerm 0#8) [] := by decide

/-- CTRL words (R105; 95_test_vectors 3). -/
theorem test_decode_ctrl : decode (csrWriteOf 0x000#9 0x00000101#32) = .instr (.cmdStart false true false) [] ∧
    decode (csrWriteOf 0x000#9 0x00000003#32) = .instr (.cmdStart true false false) [] ∧
    decode (csrWriteOf 0x000#9 0x00000202#32) = .instr (.cmdResume false true) [] ∧
    decode (csrWriteOf 0x000#9 0x00000307#32) = .instr (.cmdAbort true true) [] ∧
    decode (csrWriteOf 0x000#9 0x00000200#32) = .instr (.wrCtrlCfg false true) [] := by decide

/-- The other writes and a read (R105); a STATUS write with bit 16 clear and a reserved offset have no row. -/
theorem test_decode_csr : decode (csrWriteOf 0x004#9 0x00010000#32) = .instr .cmdIrqAck [] ∧
    decode (csrWriteOf 0x008#9 0x8000#32) = .instr (.wrBufBase 0x8000#32) [] ∧
    decode (csrWriteOf 0x00C#9 15#32) = .instr (.wrBufLen 15#32) [] ∧
    decode (csrWriteOf 0x030#9 22#32) = .instr (.wrBndTotal 22#32) [] ∧
    decode (.csr { write := false, offset := 0x020#9, width := .word, data := 0#32 }) = .instr (.rdCsr 8#7) [] ∧
    decode (csrWriteOf 0x004#9 0xFFFEFFFF#32) = .reject (.ignoredWrite 0x004#9) ∧
    decode (csrWriteOf 0x034#9 0x12345678#32) = .reject (.ignoredWrite 0x034#9) := by decide

/-- Table words of three widths, and the step that runs one. -/
theorem test_tableWord : decodeTableWord 16 0x0B02 = some (.pktC3Cbr 1#5 false false 2#6) ∧
    decodeTableWord 32 0x00000004 = some (.cmdAbort false false) ∧ decodeTableWord 8 0xFC = some (.fl2b 252#8 0#8) ∧
    after (step (State.reset.withFetchWord 16 0x0300)) (fun t => t.csr.err == some .invalidHeader) = true := by decide

/-! ## Single steps, expected values from the spec -/

/-- `[0x04]`, L = 1 (95_test_vectors P1): HDR 0x0040_2004, PKT 1, STATUS 0x0001_0013. -/
theorem test_step_c0 : after (step (atState .sSd 0x04#8 0#8 1 [0x04#8])) (fun t =>
    t.csrRead 0x010 == 0x00402004#32 && t.csrRead 0x014 == 1#32 && t.csrRead 0x020 == 1#32 &&
      t.csrRead 0x004 == 0x00010013#32) = true := by decide

/-- `[0x08, 0x05, 0x01, 0x02]`: the attempt does not fit (95_test_vectors 2.4). -/
theorem test_step_c0_fallback : after (step (atState .sSd 0x08#8 0#8 1 [0x08#8, 0x05#8, 0x01#8, 0x02#8])) (fun t =>
    t.csrRead 0x014 == 1#32 && t.csrRead 0x018 == 1#32 && t.csrRead 0x020 == 4#32 && sizesOf t 2 == [3, 0]) = true := by
  decide

/-- `[0x01, 0x02, d×4]` and `[0x01, 0x05]` (95_test_vectors 2.5). -/
theorem test_step_c1 : after (step (atState .sSd 0x01#8 0#8 1 [0x01#8, 0x02#8, 9#8, 9#8, 9#8, 9#8])) (fun t =>
    t.csrRead 0x014 == 0x102#32 && t.csrRead 0x020 == 6#32 && sizesOf t 3 == [2, 2, 0]) = true ∧
    after (step (atState .sSd 0x01#8 0#8 1 [0x01#8, 0x05#8])) (fun t => t.csrRead 0x004 == 0x00010303#32) = true := by
  decide

/-- `[0x02, 0x01, 0x02, d×3]` in `S_C2B` (95_test_vectors 2.6). -/
theorem test_step_c2 : after (step { atState .sC2b 0x02#8 0#8 2 [0x02#8, 0x01#8, 0x02#8, 9#8, 9#8, 9#8] with
      w := { (atState .sC2b 0x02#8 0#8 2 [0x02#8, 0x01#8, 0x02#8, 9#8, 9#8, 9#8]).w with s1 := 1#11, n1 := 1#2 } })
    (fun t => t.csrRead 0x014 == 0x102#32 && t.csrRead 0x018 == 3#32 && t.csrRead 0x020 == 6#32 &&
      sizesOf t 3 == [1, 2, 0]) = true := by decide

/-- The VBR packet of P2 at its last frame: OFF 5, PAD 2, SUM 4, L 15. -/
def vbrAtLast : State :=
  withLen 15 { atState .sVlast 0x83#8 0xC3#8 5 [] with
    w := { (atState .sVlast 0x83#8 0xC3#8 5 []).w with
      pad := 2#32, sum := 4#17, len := 15#24, k := 1#6
      sizes := ((Vector.replicate 48 0#11).setIfInBounds 0 3#11).setIfInBounds 1 1#11 } }

/-- P2 ends with HDR 0xC302_D083, PKT 0x403, sizes 3, 1, 4. -/
theorem test_step_vbr : after (step vbrAtLast) (fun t =>
    t.csrRead 0x010 == 0xC302D083#32 && t.csrRead 0x014 == 0x403#32 && t.csrRead 0x018 == 5#32 &&
      t.csrRead 0x01C == 2#32 && t.csrRead 0x020 == 15#32 && sizesOf t 4 == [3, 1, 4, 0]) = true := by decide

/-- The 3000-byte CBR buffer of S11 at the dispatch. -/
def cbrAtDispatch (lx : Bool) (len : Nat) : State :=
  withLen len { atState .sCbr 0x0B#8 0x02#8 2 [] with w := { (atState .sCbr 0x0B#8 0x02#8 2 []).w with lx := lx } }

/-- P3: WAIT_BND with BND_MIN 22, BND_MAX 2552, BND_SIG 0x020B; P4: below the range, STATUS 0x0001_0033; in range, the split
and the range together (R182, R223). -/
theorem test_step_boundary : after (step (cbrAtDispatch false 3000)) (fun t =>
    t.csrRead 0x004 == 0x00010002#32 && t.csrRead 0x024 == 22#32 && t.csrRead 0x028 == 2552#32 &&
      t.csrRead 0x02C == 0x020B#32) = true ∧
    after (step (cbrAtDispatch false 6)) (fun t =>
      t.csrRead 0x004 == 0x00010033#32 && t.csrRead 0x014 == 0x202#32 && t.csrRead 0x020 == 0#32) = true ∧
    after (step (cbrAtDispatch false 22)) (fun t =>
      t.csrRead 0x004 == 0x00010013#32 && t.csrRead 0x024 == 22#32 && sizesOf t 3 == [10, 10, 0]) = true := by decide

/-- A CBR packet at the split, `BND_TOTAL` taken as `T`. -/
def cbrAtSplit (len T : Nat) : State :=
  withLen len { atState .sCfin 0x0B#8 0x02#8 2 [] with
    w := { (atState .sCfin 0x0B#8 0x02#8 2 []).w with t := BitVec.ofNat 32 T } }

/-- S11 with BND_TOTAL 22, 23 and 3001 (95_test_vectors 2.8). -/
theorem test_step_split : after (step (cbrAtSplit 3000 22)) (fun t =>
    t.csrRead 0x010 == 0x0260C10B#32 && t.csrRead 0x020 == 22#32 && sizesOf t 3 == [10, 10, 0]) = true ∧
    after (step (cbrAtSplit 3000 23)) (fun t => t.csrRead 0x004 == 0x00010303#32) = true ∧
    after (step (cbrAtSplit 3000 3001)) (fun t => t.csrRead 0x004 == 0x00010103#32) = true := by decide

/-- The FL and PAD sub-blocks (95_test_vectors 2.2, 2.3). -/
theorem test_vlc : fldec 2 (listBuffer [0xFD#8, 0x01#8]) 0 = .ok 257 2 ∧ fldec 2 (listBuffer [0xFF#8, 0xFF#8]) 0 = .ok 1275 2 ∧
    fldec 1 (listBuffer [0xFC#8]) 0 = .insufficient ∧ paddec 3 (listBuffer [0xFF#8, 0xFF#8, 0x05#8]) 0 = .ok 513 3 ∧
    paddec 2 (listBuffer [0xFF#8, 0xFF#8]) 0 = .insufficient := by decide

/-- The search of 95_test_vectors 2.9 on a short buffer: the first match, and none past `BND_MAX`. -/
theorem test_search :
    search false (listBuffer [0x0B#8, 2#8, 0#8, 0x0B#8, 2#8, 0x0B#8, 2#8]) 7 2 6 0x0B#8 2#8 = 3 ∧
    search false (listBuffer [0x0B#8, 2#8, 0#8, 0x0B#8, 2#8]) 5 1 2 0x0B#8 2#8 = 0 := by decide

/-- The second sweep of P5: unresolved packets at 0 and 4, and a TOC alone at 5. -/
theorem test_sweep : (sweepFrom false (listBuffer [0x0B#8, 2#8, 1#8, 2#8, 3#8, 4#8]) 6 6 0).map (·.2) = [0, 4, 5] := by decide

/-- The firmware at the return of decode_packet: an error code, and the record of P1's registers (44_host_interface R259). -/
theorem test_firmware_return :
    after (step { withHost [.fwReturn] State.reset with fw := { Firmware.start with words := [0x00010303#32] } })
      (fun t => t.fw.result == some (.error .invalidFrameSize)) = true ∧
    after (step { withHost [.fwRecord] State.reset with
        fw := { Firmware.start with words := [0x00010013#32, 0x00402004#32, 1#32, 1#32, 0#32, 1#32, 0#32] } })
      (fun t => t.fw.result == some (.packet { hdr := headerOf 0x04#8 0#8, res := plainResult [0] 1 1 false })) = true := by
  decide

/-- The scanner in P5: after an error the cursor moves by one; after an unresolved packet at 0 the probe begins at 2. -/
theorem test_scanner :
    after (step { withHost [.scanNext 0x6100#32 3] State.reset with
        fw := { Firmware.start with result := some (.error .invalidHeader) } }) (fun t => t.fw.cursor == 1) = true ∧
    after (step { withHost [.scanNext 0x6100#32 6] State.reset with
        fw := { Firmware.start with
          result := some (.packet { hdr := headerOf 0x0B#8 2#8, res := unresolvedResult 2 0 2 false }) } })
      (fun t => t.host == [.probe 0x6100#32 6 2 1000] && t.fw.emitted.map (·.2) == [0]) = true := by decide

/-! ## Witnesses: the hypotheses of each obligation, at the edges of its clauses -/

theorem test_wit_DecodeOfEncodeIsIdentity : (Instr.fl2b 255#8 255#8).wf = true ∧
    (Instr.pktC3Vbr 31#5 true true 48#6).wf = true ∧ (Instr.fl1b 251#8).wf = true := by decide

theorem test_wit_DecodedInstrIsWellFormed : decode (.element .fl [252#8, 7#8, 9#8]) = .instr (.fl2b 252#8 7#8) [9#8] := by
  decide

theorem test_wit_FrameLengthDecoder : (2 ≤ 2 ∧ fldec 2 (listBuffer [0#8, 0#8]) 2 = .insufficient) ∧
    (0 < 1 ∧ (fun _ => none : Nat → Option Byte) 0 = none) ∧ (251#8).toNat ≤ 251 ∧ 252 ≤ (252#8).toNat ∧ 1 ≤ 0 + 1 ∧
    (0 + 1 < 2 ∧ listBuffer [252#8, 3#8] 0 = some 252#8 ∧ listBuffer [252#8, 3#8] 1 = some 3#8) ∧
    (fun i => if i = 0 then some 252#8 else none : Nat → Option Byte) 1 = none := by decide

theorem test_wit_FrameLengthRange : fldec 2 (listBuffer [0xFF#8, 0xFF#8]) 0 = .ok 1275 2 ∧
    fldec 1 (listBuffer [0xFB#8]) 0 = .ok 251 1 ∧ listBuffer [0xFB#8] 0 = listBuffer [0xFB#8, 1#8] 0 ∧
    fldec 2 (listBuffer [0xFB#8, 1#8]) 0 = .ok 251 1 := by decide

theorem test_wit_FrameLengthRoundTrip : 1275 ≤ 1275 ∧ flenc 251 = [251#8] ∧ flenc 252 = [252#8, 0#8] := by decide

theorem test_wit_PaddingRoundTrip : (508 % 254 = 0 ∧ 0 < 508 / 254 ∧ padenc 508 = [255#8, 254#8]) ∧
    ¬ (255 % 254 = 0 ∧ 0 < 255 / 254) := by decide

/-- A run of two 255s: ended by 254, by the end of the buffer, by a bus error. -/
theorem test_wit_PaddingDecoder : (∀ j < 2, 2 + j < 5 ∧ listBuffer [0#8, 0#8, 255#8, 255#8, 254#8] (2 + j) = some 255#8) ∧
    (2 + 2 < 5 ∧ listBuffer [0#8, 0#8, 255#8, 255#8, 254#8] (2 + 2) = some 254#8 ∧ (254#8 : Byte) ≠ 255#8) ∧ 4 ≤ 2 + 2 ∧
    (∀ j < 1, 0 + j < 2 ∧ (fun i => if i = 0 then some 255#8 else none : Nat → Option Byte) (0 + j) = some 255#8) ∧
    (fun i => if i = 0 then some 255#8 else none : Nat → Option Byte) (0 + 1) = none := by decide

theorem test_wit_PaddingTotalBound : paddec 4 (listBuffer [0#8, 0#8, 255#8, 254#8]) 2 = .ok 508 2 ∧ 2 ≤ 2 ∧ 4 < 2 ^ 24 := by
  decide

theorem test_wit_SubBlocksComputeTheCodes : (0 < 2 ∧ listBuffer [252#8, 9#8] 0 = some 252#8 ∧ 252 ≤ (252#8 : Byte).toNat ∧
    listBuffer [252#8, 9#8] 1 = some 9#8 ∧ flDecoder 252#8 true 9#8 true = ⟨288#11, 2#2, false⟩) ∧
    State.reset.w.pad = 0#32 ∧ (254#8 : Byte) ≠ 255#8 := by decide

theorem test_wit_ConfigLutRow : (11#5).toNat ≤ 11 ∧ 12 ≤ (12#5).toNat ∧ (15#5).toNat ≤ 15 ∧ 16 ≤ (16#5).toNat := by decide

theorem test_wit_FrameLengthRowsLatch : (atState .sC2a 2#8 0#8 1 []).w.state ≠ .sVlen := by decide

theorem test_wit_FrameLengthRowsInVbrLoop : (atState .sVlen 3#8 0x82#8 2 [3#8, 0x82#8, 255#8, 255#8]).w.state = .sVlen ∧
    (∃ b0 b1, Instr.fl2b 255#8 255#8 = .fl2b b0 b1 ∧ 1275 = 4 * b1.toNat + b0.toNat ∧ 2 = 2) :=
  ⟨by decide, 255#8, 255#8, rfl, by decide, rfl⟩

/-- L = 1; an attempt that fits exactly; one that does not, at 1275 and at 1276 bytes; a bus error. -/
theorem test_wit_SingleFrameRow : (atState .sSd 0#8 0#8 1 [0#8]).len = 1 ∧
    (fldec 3 (atState .sSd 8#8 0#8 1 [8#8, 1#8, 0x55#8]).B 1 = .ok 1 1 ∧ 1 + 1 + 1 ≤ 3) ∧
    (fldec 1276 (withLen 1276 (atState .sSd 0#8 0#8 1 [0#8, 255#8, 255#8])).B 1 = .ok 1275 2 ∧ 1276 < 1 + 2 + 1275 ∧
      (withLen 1276 (atState .sSd 0#8 0#8 1 [0#8, 255#8, 255#8])).len - 1 ≤ 1275) ∧
    1275 < (withLen 1277 (atState .sSd 0#8 0#8 1 [0#8, 255#8, 255#8])).len - 1 ∧
    fldec 2 (withHole 1 (atState .sSd 0#8 0#8 1 [0#8, 1#8])).B 1 = .busError ∧
    ((atState .sSd 0#8 0#8 1 [0#8]).w.fields.code = 0#2 ∧
      after (exec (.pktC0 0#5 false) (atState .sSd 0#8 0#8 1 [0#8])) (fun t => t.csr.err == none) = true) := by decide

theorem test_wit_TwoEqualFramesRow : 1 ≤ (atState .sSd 1#8 0#8 1 [1#8, 0#8]).len ∧
    (fldec 2 (atState .sSd 1#8 0#8 1 [1#8, 0#8]).B 1 = .ok 0 1 ∧ 1 + 1 + 2 * 0 ≤ 2) ∧
    (fldec 5 (atState .sSd 1#8 0#8 1 [1#8, 9#8, 0#8, 0#8, 0#8]).B 1 = .ok 9 1 ∧ 5 < 1 + 1 + 2 * 9 ∧ (5 - 1) % 2 = 0) ∧
    (fldec 2 (atState .sSd 1#8 0#8 1 [1#8, 5#8]).B 1 = .ok 5 1 ∧ 2 < 1 + 1 + 2 * 5 ∧ (2 - 1) % 2 = 1) ∧
    fldec 2 (withHole 1 (atState .sSd 1#8 0#8 1 [1#8, 1#8])).B 1 = .busError ∧
    ((atState .sSd 1#8 0#8 1 [1#8]).w.fields.code = 1#2 ∧
      after (exec (.pktC1 0#5 false) (atState .sSd 1#8 0#8 1 [1#8])) (fun t => t.csr.err == none) = true) := by decide

theorem test_wit_TwoSizedFramesRow : (atState .sC2a 2#8 0#8 1 [2#8]).w.state = .sC2a ∧
    fldec 1 (atState .sC2a 2#8 0#8 1 [2#8]).B 1 = .insufficient ∧
    fldec 2 (withHole 1 (atState .sC2a 2#8 0#8 1 [2#8, 0#8])).B 1 = .busError ∧
    fldec 2 (atState .sC2a 2#8 0#8 1 [2#8, 0#8]).B 1 = .ok 0 1 ∧
    (atState .sC2b 2#8 0#8 2 [2#8, 0#8]).w.state = .sC2b ∧
    (fldec 6 (atState .sC2b 2#8 0#8 2 [2#8, 1#8, 2#8, 0#8, 0#8, 0#8]).B (1 + 1) = .ok 2 1 ∧ 1 + 1 + 1 + 1 + 2 ≤ 6) ∧
    (fldec 2 (atState .sC2b 2#8 0#8 2 [2#8, 0#8]).B (1 + 1) = .insufficient ∧ 1 + 1 + 0 ≤ 2 ∧ 2 - 1 - 1 - 0 ≤ 1275) ∧
    (4 < 1 + 1 + 3 ∨ 1275 < 3) ∧
    fldec 3 (withHole 2 (atState .sC2b 2#8 0#8 2 [2#8, 0#8, 0#8])).B (1 + 1) = .busError ∧
    ((atState .sC2b 2#8 0#8 2 [2#8, 0#8]).w.fields.code = 2#2 ∧
      after (exec (.pktC2 0#5 false) (atState .sC2b 2#8 0#8 2 [2#8, 0#8])) (fun t => t.csr.err == none) = true) := by decide

theorem test_wit_IllegalFrameCountRows (config : BitVec 5) :
    Instr.pktC3M0 config false true true = .pktC3M0 config false true true ∧ (0#6 : BitVec 6) = 0#6 := ⟨rfl, rfl⟩

theorem test_wit_Code3HeaderRows : (atState .sFc 3#8 0#8 1 [3#8, 0x82#8]).w.state = .sFc := by decide

/-- A negative last frame, one of 1276 bytes, one of exactly 1275. -/
theorem test_wit_VbrLastFrameRow : vbrAtLast.w.state = .sVlast ∧
    (withLen 10 vbrAtLast).len < (withLen 10 vbrAtLast).off + (withLen 10 vbrAtLast).pad + (withLen 10 vbrAtLast).sum ∧
    1275 < (withLen 1287 vbrAtLast).len - vbrAtLast.off - vbrAtLast.pad - vbrAtLast.sum ∧
    (withLen 1286 vbrAtLast).len - vbrAtLast.off - vbrAtLast.pad - vbrAtLast.sum ≤ 1275 ∧
    vbrAtLast.off + vbrAtLast.pad + vbrAtLast.sum ≤ (withLen 1286 vbrAtLast).len := by decide

/-- M = 2, OFF = 2: the range is 22 to 2552; lengths 21, 22, 2552 and 2553. -/
theorem test_wit_CbrDispatchRow : (cbrAtDispatch true 22).w.state = .sCbr ∧ (cbrAtDispatch true 22).w.lx = true ∧
    (cbrAtDispatch false 21).w.lx = false ∧
    22 = (cbrAtDispatch false 21).off + 10 * (cbrAtDispatch false 21).m + (cbrAtDispatch false 21).pad ∧
    2552 = (cbrAtDispatch false 21).off + 1275 * (cbrAtDispatch false 21).m + (cbrAtDispatch false 21).pad ∧
    2552 < 2 ^ 32 ∧ (cbrAtDispatch false 21).len < 22 ∧ 22 ≤ (cbrAtDispatch false 22).len ∧
    (cbrAtDispatch false 2552).len ≤ 2552 ∧ 2552 < (cbrAtDispatch false 2553).len ∧
    (22 - 2 - 0) % (cbrAtDispatch false 22).m = 0 ∧ (23 - 2 - 0) % (cbrAtDispatch false 23).m ≠ 0 := by decide

theorem test_wit_CbrSplitRow : (cbrAtSplit 3000 22).w.state = .sCfin ∧ (cbrAtSplit 3000 3001).len < 3001 ∧
    (1 ≤ (cbrAtSplit 3000 1).len ∧ 1 < (cbrAtSplit 3000 1).off + (cbrAtSplit 3000 1).pad) ∧
    (23 - (cbrAtSplit 3000 23).off - (cbrAtSplit 3000 23).pad) % (cbrAtSplit 3000 23).m ≠ 0 ∧
    ((2554 - (cbrAtSplit 3000 2554).off) % (cbrAtSplit 3000 2554).m = 0 ∧
      1275 < (2554 - (cbrAtSplit 3000 2554).off) / (cbrAtSplit 3000 2554).m) ∧
    ((2552 - (cbrAtSplit 3000 2552).off) % (cbrAtSplit 3000 2552).m = 0 ∧
      (2552 - (cbrAtSplit 3000 2552).off) / (cbrAtSplit 3000 2552).m ≤ 1275) := by decide

theorem test_wit_CommitWritesTheResult : (plainResult (List.replicate 48 1275) 1 (2 ^ 24 - 1) true).frameCount ≤ 48 ∧
    (plainResult (List.replicate 48 1275) 1 (2 ^ 24 - 1) true).total < 2 ^ 24 ∧
    (plainResult (List.replicate 48 1275) 1 (2 ^ 24 - 1) true).payloadOffset < 2 ^ 24 ∧
    (plainResult (List.replicate 48 1275) 1 (2 ^ 24 - 1) true).paddingSize < 2 ^ 32 ∧
    (∀ x ∈ (plainResult (List.replicate 48 1275) 1 (2 ^ 24 - 1) true).frames, x ≤ 1275) ∧
    ((cbrAtDispatch false 22).w.fields = tocSplit (cbrAtDispatch false 22).w.toc ∧
      (cbrAtDispatch false 22).w.lut = cfgLut (tocConfig (cbrAtDispatch false 22).w.toc)) := by decide

theorem test_wit_StartCommand : (0x101#32).getLsbD 0 = true ∧ (0x101#32).getLsbD 2 = false ∧ State.reset.w.state = .sIdle ∧ (atState .sDone 0#8 0#8 1 []).w.state = .sDone ∧
    (atState .sSd 0#8 0#8 1 []).visible = .busy ∧ (atState .sWaitBnd 3#8 1#8 2 []).visible = .waitBnd := by decide

theorem test_wit_ResumeCommand : State.reset.w.state ≠ .sWaitBnd ∧ (atState .sWaitBnd 3#8 1#8 2 []).w.state = .sWaitBnd ∧
    (atState .sWaitBnd 3#8 1#8 2 []).csr.bndTotal = 0#32 ∧ (22#32 : Word) ≠ 0#32 := by decide

/-- One word per clause: 0x307, 1, 3 (in WAIT_BND), 0 (and 3 in BUSY). -/
theorem test_wit_CtrlWritePriority : (0x307#32).getLsbD 2 = true ∧ ((1#32).getLsbD 2 = false ∧ (1#32).getLsbD 0 = true) ∧
    ((3#32).getLsbD 2 = false ∧ (3#32).getLsbD 1 = true) ∧ ((0#32).getLsbD 0 = false ∧ (0#32).getLsbD 1 = false) ∧
    ((atState .sSd 0#8 0#8 1 []).w.state ≠ .sIdle ∧ (atState .sSd 0#8 0#8 1 []).w.state ≠ .sDone ∧
      (atState .sSd 0#8 0#8 1 []).w.state ≠ .sWaitBnd) := by decide

theorem test_wit_IrqAckCommand : (0x00010000#32).getLsbD 16 = true ∧ (0xFFFEFFFF#32).getLsbD 16 = false := by decide

theorem test_wit_CsrReadCommand : 13 ≤ (13#7).toNat ∧ (63#7).toNat ≤ 63 ∧ (64#7).toNat = 64 + 0 ∧ (111#7).toNat = 64 + 47 ∧
    112 ≤ (112#7).toNat := by decide

/-- `STATUS.STATE` of the four visible states (10_state R29): 0, 1, 2, 3. -/
theorem test_status_state : [EngineState.sIdle, .sSd, .sWaitBnd, .sDone].map (fun st =>
    (atState st 0#8 0#8 0 []).csrRead 0x004) = [0#32, 1#32, 2#32, 3#32] := by decide

/-- `SpaceInv` holds at reset. -/
theorem test_wit_spaceInv : SpaceInv State.reset := ⟨by decide, by decide, by decide, by decide, by decide⟩

theorem test_wit_AbortCommand : (0x307#32).getLsbD 2 = true := by decide

theorem test_wit_ReservedAndReadOnly : (0x010#9 : BitVec 9) ≠ 0x000#9 ∧ (0x010#9).toNat % 4 = 0 ∧ SpaceInv State.reset ∧
    0x1#32 &&& 0x307#32 = 0xF9#32 &&& 0x307#32 ∧ (0x10000#32).getLsbD 16 = (0xFFFFFFFF#32).getLsbD 16 ∧
    0x01000005#32 &&& 0xFFFFFF#32 = 5#32 &&& 0xFFFFFF#32 := ⟨by decide, by decide, test_wit_spaceInv, by decide, by decide, by decide⟩

/-- A PAD byte, an FL code, a TOC byte, an FC byte, a latched window and an access. -/
theorem test_wit_StepRunsDecodedInstruction :
    ((atState .sToc 0#8 0#8 0 [3#8]).host = [] ∧ 0 < (atState .sToc 0#8 0#8 0 [3#8]).len ∧
      (atState .sToc 0#8 0#8 0 [3#8]).B 0 = some 3#8 ∧
      decode (.element .toc [3#8]) = .instr (.tocSplit 0#5 false 3#2) [] ∧
      decode (.element .lut [3#8]) = .instr (.cfgLut 0#5) [] ∧
      after (exec (.tocSplit 0#5 false 3#2) (atState .sToc 0#8 0#8 0 [3#8])) (fun _ => true) = true) ∧
    decodeWindow 0#8 0#8 = .pktC0 0#5 false ∧
    (1 < (atState .sFc 3#8 0#8 1 [3#8, 1#8]).len ∧ (atState .sFc 3#8 0#8 1 [3#8, 1#8]).B 1 = some 1#8 ∧
      decode (.element .shape [3#8, 1#8]) = .instr (.pktC3Cbr 0#5 false false 1#6) []) ∧
    (2 < (atState .sPad 3#8 0x41#8 2 [3#8, 0x41#8, 5#8]).len ∧ (atState .sPad 3#8 0x41#8 2 [3#8, 0x41#8, 5#8]).B 2 = some 5#8 ∧
      decode (.element .pad [5#8]) = .instr (.padTerm 5#8) []) ∧
    (flBytes 3 (atState .sVlen 3#8 0x82#8 2 [3#8, 0x82#8, 7#8]).B 2 = some [7#8] ∧
      decode (.element .fl [7#8]) = .instr (.fl1b 7#8) []) ∧
    decode (.csr { write := true, offset := 0x000#9, width := .word, data := 4#32 }) = .instr (.cmdAbort false false) [] := by
  decide

theorem test_wit_MissingByteEndsTheDecode : (atState .sToc 0#8 0#8 0 []).len = 0 ∧
    (withHole 0 (atState .sToc 0#8 0#8 0 [3#8])).B 0 = none ∧ (atState .sFc 3#8 0#8 1 [3#8]).len < 2 ∧
    (withHole 1 (atState .sFc 3#8 0#8 1 [3#8, 1#8])).B 1 = none ∧ (atState .sPad 3#8 0x41#8 2 [3#8, 0x41#8]).len ≤ 2 + 0 ∧
    (withHole 2 (atState .sPad 3#8 0x41#8 2 [3#8, 0x41#8, 0#8])).B 2 = none ∧
    fldec 3 (atState .sVlen 3#8 0x82#8 2 [3#8, 0x82#8, 0xFC#8]).B 2 = .insufficient ∧
    fldec 3 (withHole 2 (atState .sVlen 3#8 0x82#8 2 [3#8, 0x82#8, 7#8])).B 2 = .busError := by decide

theorem test_wit_QuietStatesStay : State.reset.host = [] ∧ State.reset.visible = .idle ∧
    (atState .sWaitBnd 3#8 1#8 2 []).visible = .waitBnd ∧ (atState .sDone 3#8 1#8 2 []).visible = .done := by decide

/-- A store into the buffer in BUSY, and a byte access, stop; the byte past the buffer does not. -/
theorem test_wit_OnlyTheTwoFaultsStop :
    isFault (step (withHost [.store 1#32 7#8] (atState .sSd 0#8 0#8 1 [0#8, 1#8]))) .bufferRace = true ∧
    after (step (withHost [.store 2#32 7#8] (atState .sSd 0#8 0#8 1 [0#8, 1#8]))) (fun _ => true) = true ∧
    isFault (step (withHost [.csr { write := false, offset := 0x004#9, width := .byte, data := 0#32 }] State.reset))
      .unsupportedCsrAccess = true ∧
    isFault (step (withHost [.busRead 0xFFFFFE02#32 .word] State.reset)) .unsupportedCsrAccess = true := by decide

theorem test_wit_EngineNeverWritesMemory : after (exec .padCont State.reset) (fun _ => true) = true ∧
    after (engineStep (atState .sSd 4#8 0#8 1 [4#8])) (fun _ => true) = true := by decide

theorem test_wit_HostStoreWritesOneByte : (withHost [.store 0x8000#32 4#8] State.reset).host = .store 0x8000#32 4#8 :: [] ∧
    Memory.wf State.reset.mem = true ∧ isHole State.reset.platform 0x8000 = false ∧
    ¬ (State.reset.visible = .busy ∧ State.reset.inBuffer 0x8000#32 = true) := by decide

/-- A buffer of two bytes that wraps: base 0xFFFF_FFFF, so its byte 1 stands at address 0. -/
theorem test_wit_RaceIsAStoreIntoTheBuffer :
    let s := { atState .sSd 0#8 0#8 1 [0#8, 0#8] with
      w := { (atState .sSd 0#8 0#8 1 [0#8, 0#8]).w with base := 0xFFFFFFFF#32 } }
    s.visible = .busy ∧ 1 < s.len ∧ (0#32 : Word).toNat = (s.w.base.toNat + 1) % 2 ^ s.platform.addrW ∧
      isFault (step (withHost [.store 0#32 1#8] s)) .bufferRace = true := by decide

theorem test_wit_BufferReadWraps :
    let s := { State.reset with w := { State.reset.w with base := 0xFFFFFFFF#32 } }
    s.w.base.toNat + 1 = 2 ^ s.platform.addrW := by decide

theorem test_wit_ResetClearsTheBlock : (withHost [.reset] (cbrAtDispatch false 3000)).host = .reset :: [] := by decide

theorem test_wit_StepKeepsSpaceInv : SpaceInv State.reset ∧ after (step State.reset) (fun _ => true) = true :=
  ⟨test_wit_spaceInv, by decide⟩

/-- A CBR packet at its dispatch meets the invariant of `S_CBR`. -/
theorem test_wit_code3Held : Code3Held (cbrAtDispatch false 3000) :=
  ⟨⟨by decide, by decide⟩, by decide, by decide, by decide, by decide, by decide, by decide, by decide⟩

theorem test_wit_StepKeepsEngineInv : EngineInv (cbrAtDispatch false 3000) ∧
    after (step (cbrAtDispatch false 3000)) (fun _ => true) = true := ⟨⟨test_wit_code3Held, by decide⟩, by decide⟩

theorem test_wit_StepKeepsStatusInv : StatusInv (cbrAtDispatch false 3000) :=
  ⟨fun _ => ⟨by decide, by decide, by decide⟩, by decide, by decide⟩

/-- The result registers at reset meet `ResultInv`, so a CBR packet at its dispatch does. -/
theorem test_wit_StepKeepsResultInv : EngineInv (cbrAtDispatch false 3000) ∧ ResultInv (cbrAtDispatch false 3000) ∧
    after (step (cbrAtDispatch false 3000)) (fun _ => true) = true :=
  ⟨⟨test_wit_code3Held, by decide⟩,
    ⟨by decide, by decide, by decide, by decide, by decide, by decide, by decide, by decide, by decide⟩, by decide⟩

theorem test_wit_RangeFitsItsRegisters : EngineInv (cbrAtDispatch false 3000) ∧ (cbrAtDispatch false 3000).w.state = .sCbr :=
  ⟨⟨test_wit_code3Held, by decide⟩, by decide⟩

/-- Set by the entry to WAIT_BND and by a commit; cleared by IRQ_ACK. -/
theorem test_wit_IrqPendLifeCycle : (cbrAtDispatch false 3000).csr.irqPend = false ∧
    (cbrAtDispatch false 3000).visible = .busy ∧
    after (step (cbrAtDispatch false 3000)) (fun t => decide (t.visible = .waitBnd) && t.csr.irqPend) = true ∧
    after (step (cbrAtDispatch false 6)) (fun t => decide (t.visible = .done) && t.csr.irqPend) = true ∧
    after (step { withHost [wr 0x004#9 0x00010000#32] State.reset with csr := { State.reset.csr with irqPend := true } })
      (fun t => !t.csr.irqPend) = true := by decide

theorem test_wit_OnlyCommitChangesResults :
    after (step (cbrAtDispatch false 6)) (fun t => decide (t.csr.pkt ≠ (cbrAtDispatch false 6).csr.pkt)) = true := by decide

theorem test_wit_BusyStepsAreInvisible : after (engineStep (cbrAtDispatch true 22)) (fun t => decide (t.visible = .busy)) = true ∧
    after (engineStep (atState .sToc 0#8 0#8 0 [3#8])) (fun t => decide (t.visible = .busy)) = true := by decide

/-- Two memories that differ past the buffer alone. -/
theorem test_wit_EngineReadsOnlyItsBuffer :
    ∀ i < (atState .sSd 4#8 0#8 1 [4#8, 1#8]).len,
      State.B { atState .sSd 4#8 0#8 1 [4#8, 1#8] with mem := memOf 0 [4#8, 1#8, 9#8] } i =
        (atState .sSd 4#8 0#8 1 [4#8, 1#8]).B i := by decide

theorem test_wit_StateMachineComputesDecode : (atState .sToc 0#8 0#8 0 [3#8]).w.state = .sToc ∧
    (atState .sToc 0#8 0#8 0 [3#8]).host = [] := by decide

/-- Two idle machines with other hidden registers and the same buffer. -/
theorem test_wit_OutcomeIgnoresHiddenRegisters :
    let s := atState .sIdle 0#8 0#8 0 [3#8, 1#8]
    let s' := { s with w := { s.w with toc := 0xFF#8, pad := 77#32, k := 9#6 } }
    s.w.state = .sIdle ∧ s'.w.state = .sIdle ∧ s.host = [] ∧ s'.host = [] ∧ s.csr = s'.csr ∧ s.mem = s'.mem ∧
      s.platform = s'.platform ∧ s.w ≠ s'.w := by decide

theorem test_wit_EveryBusyEnds : EngineInv (cbrAtDispatch false 3000) ∧ (cbrAtDispatch false 3000).visible = .busy ∧
    (cbrAtDispatch false 3000).host = [] := ⟨⟨test_wit_code3Held, by decide⟩, by decide, by decide⟩

theorem test_wit_SearchFindsFirstMatch : search false (listBuffer [1#8, 2#8, 1#8, 2#8]) 4 1 2 1#8 2#8 = 2 ∧
    (2 : Nat) ≠ 0 ∧ search false (listBuffer [1#8, 2#8, 1#8, 3#8]) 4 1 2 1#8 2#8 = 0 ∧ 0 < 1 := by decide

/-- The scanner at `op` with what decode_packet returned. -/
def scannerAt (op : HostOp) (r : FwResult) : State :=
  { withHost [op] State.reset with fw := { Firmware.start with result := some r } }

/-- A packet whose total is known; an unresolved one whose probe succeeds at 4, the first offset from 2 on, and one whose
window is empty; and the host's steps on a packet and on an error. -/
theorem test_wit_ScannerMovesForward :
    fwDecodePacket false (fromOffset (listBuffer [0#8]) 0) (1 - 0) =
      .packet { hdr := headerOf 0#8 0#8, res := plainResult [0] 1 1 false } ∧
    (fwDecodePacket false (fromOffset (listBuffer [0x0B#8, 2#8, 1#8, 2#8, 3#8, 4#8]) 0) (6 - 0) =
        .packet { hdr := headerOf 0x0B#8 2#8, res := unresolvedResult 2 0 2 false } ∧
      fwDecodePacket false (fromOffset (listBuffer [0x0B#8, 2#8, 1#8, 2#8, 3#8, 4#8]) 2) (6 - 2) = .error .invalidFrameSize ∧
      fwDecodePacket false (fromOffset (listBuffer [0x0B#8, 2#8, 1#8, 2#8, 3#8, 4#8]) 3) (6 - 3) = .error .invalidFrameSize ∧
      fwDecodePacket false (fromOffset (listBuffer [0x0B#8, 2#8, 1#8, 2#8, 3#8, 4#8]) 4) (6 - 4) =
        .packet { hdr := headerOf 3#8 4#8, res := unresolvedResult 2 0 4 false }) ∧
    fwDecodePacket false (fromOffset (listBuffer [3#8, 4#8]) 0) (2 - 0) =
      .packet { hdr := headerOf 3#8 4#8, res := unresolvedResult 2 0 4 false } ∧
    (after (step (scannerAt (.scanNext 0#32 2) (.packet { hdr := headerOf 3#8 4#8, res := unresolvedResult 2 0 4 false })))
        (fun _ => true) = true ∧
      after (step (scannerAt (.scanNext 0#32 1) (.packet { hdr := headerOf 0#8 0#8, res := plainResult [0] 1 1 false })))
        (fun _ => true) = true ∧
      after (step (scannerAt (.probeNext 0#32 6 4 998)
        (.packet { hdr := headerOf 3#8 4#8, res := unresolvedResult 2 0 4 false }))) (fun t => t.fw.cursor == 4) = true) ∧
    ((scannerAt (.scanNext 0#32 2) (.error .invalidHeader)).fw.result = some (.error .invalidHeader) ∧
      (scannerAt (.probeNext 0#32 6 2 1000) (.error .invalidHeader)).host = [.probeNext 0#32 6 2 1000]) ∧
    ((scannerAt (.scan 0#32 1) (.error .invalidHeader)).fw.cursor < 1 ∧
      0 ≤ (scannerAt (.scan 0#32 0) (.error .invalidHeader)).fw.cursor ∧
      (scannerAt (.probe 0#32 6 5 1) (.error .invalidHeader)).host = [.probe 0#32 6 5 1] ∧ 0 < 1 ∧ 5 < 6 ∧ 6 ≤ 6) := by
  decide

/-- The longest call the hardware takes, and the shortest it does not; from IDLE and from DONE. -/
theorem test_wit_DecodePacketRoutineReturns :
    (withHost [.decodePacket 0x8000#32 (2 ^ 24 - 1)] State.reset).host = .decodePacket 0x8000#32 (2 ^ 24 - 1) :: [] ∧
    (withHost [.decodePacket 0x8000#32 (2 ^ 24)] State.reset).host = .decodePacket 0x8000#32 (2 ^ 24) :: [] ∧
    2 ^ 24 - 1 < 2 ^ 24 ∧ State.reset.w.state = .sIdle ∧ (atState .sDone 0#8 0#8 1 []).w.state = .sDone := by decide

end Sys2Proof.Tests
end

namespace Sys2Proof.Machine

/-! ## What a running decode does to the machine -/

/-- `u` is `s` but for working registers other than the latched inputs `w.BASE`, `w.L`, `w.LX`, and for the range registers
(43_boundary R221): nothing else of the block, and nothing outside it, differs. -/
structure SameButProgress (s u : State) : Prop where
  csr      : u.csr = { s.csr with bndMin := u.csr.bndMin, bndMax := u.csr.bndMax, bndSig := u.csr.bndSig }
  base     : u.w.base = s.w.base
  len      : u.w.len = s.w.len
  lx       : u.w.lx = s.w.lx
  mem      : u.mem = s.mem
  rdata    : u.rdata = s.rdata
  host     : u.host = s.host
  fw       : u.fw = s.fw
  platform : u.platform = s.platform

/-- The four ways a decode moves on from `s` (42_packet_fsm R181): it goes on, it asks for a boundary (43_boundary R224), it
ends in an error (60_exceptions R288), or it commits (42_packet_fsm R200). -/
inductive DecodeMove (s : State) : State → Prop where
  | goOn {u : State} (h : SameButProgress s u) : DecodeMove s u
  | ask {u : State} (h : SameButProgress s u) : DecodeMove s (needBoundary u)
  | fail {u : State} (h : SameButProgress s u) (e : ErrKind) : DecodeMove s (raiseError e u)
  | succeed {u : State} (h : SameButProgress s u) (r : Result) : DecodeMove s (commit r u)

namespace SameButProgress

theorem refl (s : State) : SameButProgress s s := ⟨rfl, rfl, rfl, rfl, rfl, rfl, rfl, rfl, rfl⟩

/-- A change of working registers that keeps the latched inputs. -/
theorem ofWork {s : State} (w : Work) (hbase : w.base = s.w.base) (hlen : w.len = s.w.len) (hlx : w.lx = s.w.lx) :
    SameButProgress s { s with w := w } :=
  ⟨rfl, hbase, hlen, hlx, rfl, rfl, rfl, rfl, rfl⟩

theorem trans {s t u : State} (h : SameButProgress s t) (h' : SameButProgress t u) : SameButProgress s u where
  csr      := by rw [h'.csr, h.csr]
  base     := h'.base.trans h.base
  len      := h'.len.trans h.len
  lx       := h'.lx.trans h.lx
  mem      := h'.mem.trans h.mem
  rdata    := h'.rdata.trans h.rdata
  host     := h'.host.trans h.host
  fw       := h'.fw.trans h.fw
  platform := h'.platform.trans h.platform

theorem goto (s : State) (st : EngineState) : SameButProgress s (s.goto st) := ofWork _ rfl rfl rfl

theorem moveTo (s : State) (off : Nat) : SameButProgress s (s.moveTo off) := ofWork _ rfl rfl rfl

theorem readFc (fc : Byte) (s : State) : SameButProgress s (readFc fc s) := ofWork _ rfl rfl rfl

theorem toSplit (T : Word) (s : State) : SameButProgress s (toSplit T s) := ofWork _ rfl rfl rfl

theorem storeLast (s : State) : SameButProgress s (storeLast s) := ofWork _ rfl rfl rfl

theorem publishRange (s : State) : SameButProgress s (publishRange s) := ⟨rfl, rfl, rfl, rfl, rfl, rfl, rfl, rfl, rfl⟩

theorem latchVerdict (s : State) (a : FlVerdict) : SameButProgress s (s.latchVerdict a) := by
  obtain h | ⟨size, n, -, h⟩ := latchVerdict_cases s a <;> rw [h]
  · exact refl s
  · exact ofWork _ rfl rfl rfl

theorem afterPadding (s : State) : SameButProgress s (afterPadding s) := by
  obtain ⟨-, -, h⟩ | ⟨-, -, h⟩ | ⟨-, h⟩ := afterPadding_cases s <;> rw [h]
  · exact ofWork _ rfl rfl rfl
  · exact ofWork _ rfl rfl rfl
  · exact goto s .sCbr

theorem c3Header (fc : Byte) (s : State) : SameButProgress s (c3Header fc s) := by
  obtain ⟨-, h⟩ | ⟨-, h⟩ := c3Header_cases fc s <;> rw [h]
  · exact (readFc fc s).trans (goto _ .sPad)
  · exact (readFc fc s).trans (afterPadding _)

theorem vlenStore (size n : Nat) (s : State) : SameButProgress s (vlenStore size n s) := by
  obtain ⟨k, st, -, h⟩ := vlenStore_cases size n s
  rw [h]
  exact ofWork _ rfl rfl rfl

theorem flReturn (size n : Nat) (s : State) : SameButProgress s (flReturn size n s) := by
  have hlatch : SameButProgress s (s.latchFl size n) := ofWork _ rfl rfl rfl
  by_cases h : s.w.state = .sVlen
  · rw [Machine.flReturn, if_pos h]
    exact hlatch.trans (vlenStore size n _)
  · rwa [Machine.flReturn, if_neg h]

end SameButProgress

namespace DecodeMove

/-- Progress before a move is part of the move. -/
theorem after {s u t : State} (h : SameButProgress s u) (ht : DecodeMove u t) : DecodeMove s t := by
  cases ht with
  | goOn hu => exact .goOn (h.trans hu)
  | ask hu => exact .ask (h.trans hu)
  | fail hu e => exact .fail (h.trans hu) e
  | succeed hu r => exact .succeed (h.trans hu) r

theorem raiseError (e : ErrKind) (s : State) : DecodeMove s (raiseError e s) := .fail (.refl s) e

theorem commitUnresolved (s : State) : DecodeMove s (commitUnresolved s) := .succeed (.refl s) _

theorem finish (x : Except ErrKind Result) (s : State) : DecodeMove s (finish x s) := by
  obtain ⟨e, -, h⟩ | ⟨r, -, h⟩ := finish_cases x s <;> rw [h]
  · exact raiseError e s
  · exact .succeed (.refl s) r

theorem finishPlain (x : Except ErrKind Result) (s : State) : DecodeMove s (finishPlain x s) := by
  obtain ⟨e, -, h⟩ | ⟨r, -, h⟩ := finishPlain_cases x s <;> rw [h]
  · exact raiseError e s
  · exact .succeed (.moveTo s _) r

theorem c2First (s : State) : DecodeMove s (c2First s) := by
  obtain ⟨-, h⟩ | ⟨-, h⟩ | ⟨size, n, -, h⟩ := c2First_cases s <;> rw [h]
  · exact raiseError _ s
  · exact raiseError _ s
  · exact .goOn (.ofWork _ rfl rfl rfl)

theorem c2Second (s : State) : DecodeMove s (c2Second s) := after (.latchVerdict s _) (finishPlain _ _)

theorem c3Illegal (fc : Byte) (s : State) : DecodeMove s (c3Illegal fc s) :=
  after (.ofWork { s.w with fc := fc, off := 2#24 } rfl rfl rfl) (raiseError _ _)

theorem vbrLast (s : State) : DecodeMove s (vbrLast s) := by
  obtain ⟨-, h⟩ | ⟨-, -, h⟩ := vbrLast_cases s <;> rw [h]
  · exact raiseError _ s
  · exact .succeed (.storeLast s) _

theorem cbrFinish (s : State) : DecodeMove s (cbrFinish s) := finish _ s

theorem cbrDispatch (s : State) : DecodeMove s (cbrDispatch s) := by
  have hrange := SameButProgress.publishRange s
  obtain ⟨-, h⟩ | ⟨-, -, h⟩ | ⟨-, -, h⟩ | ⟨-, -, -, h⟩ := cbrDispatch_cases s <;> rw [h]
  · exact .goOn (.toSplit _ s)
  · exact after hrange (commitUnresolved _)
  · exact .ask hrange
  · exact after (hrange.trans (.toSplit _ _)) (cbrFinish _)

theorem resume (s : State) : DecodeMove s (resume s) := by
  obtain ⟨-, h⟩ | ⟨-, h⟩ := resume_cases s <;> rw [h]
  · exact after (.ofWork { s.w with t := 0#32 } rfl rfl rfl) (commitUnresolved _)
  · exact .goOn (.ofWork _ rfl rfl rfl)

/-- A move leaves memory, the platform and the base addresses as they are. -/
theorem frame {s t : State} (h : DecodeMove s t) :
    t.mem = s.mem ∧ t.platform = s.platform ∧ t.csr.bufBase = s.csr.bufBase ∧ t.w.base = s.w.base := by
  cases h with
  | goOn hu => exact ⟨hu.mem, hu.platform, by rw [hu.csr], hu.base⟩
  | ask hu => exact ⟨hu.mem, hu.platform, by rw [needBoundary_csr, hu.csr], hu.base⟩
  | fail hu e => exact ⟨hu.mem, hu.platform, by rw [raiseError_csr, hu.csr], hu.base⟩
  | succeed hu r => exact ⟨hu.mem, hu.platform, by rw [commit_csr_bufBase, hu.csr], hu.base⟩

end DecodeMove

end Sys2Proof.Machine

namespace Sys2Proof

/-! ## Which rows the engine and the CSR port run -/

/-- Is the row a command of the CSR port (30_encoding R105)? -/
def Instr.isCommand : Instr → Bool
  | .cmdStart _ _ _ | .cmdResume _ _ | .cmdAbort _ _ | .wrCtrlCfg _ _ | .cmdIrqAck | .wrBufBase _ | .wrBufLen _
  | .wrBndTotal _ | .rdCsr _ => true
  | _ => false

theorem isCommand_decodeWindow (toc fc : Byte) : (decodeWindow toc fc).isCommand = false := by
  unfold decodeWindow decodeCode3
  split_ifs <;> rfl

theorem isCommand_of_decodeShape {bytes rest : List Byte} {i : Instr} (h : decodeShape bytes = .instr i rest) :
    i.isCommand = false := by
  unfold decodeShape at h
  split at h
  · cases h
  · split at h
    · split at h <;> cases h
      exact isCommand_decodeWindow _ _
    · cases h; exact isCommand_decodeWindow _ _

theorem isCommand_of_decodeFl {bytes rest : List Byte} {i : Instr} (h : decodeFl bytes = .instr i rest) :
    i.isCommand = false := by
  unfold decodeFl at h
  split at h
  · cases h
  · split_ifs at h
    · cases h; rfl
    · split at h <;> cases h; rfl
    · cases h; rfl

theorem isCommand_of_decodePad {bytes rest : List Byte} {i : Instr} (h : decodePad bytes = .instr i rest) :
    i.isCommand = false := by
  unfold decodePad at h
  split at h <;> cases h
  split_ifs <;> rfl

/-- Nothing the bitstream holds is a command. -/
theorem isCommand_of_decode_element {site : Site} {bytes rest : List Byte} {i : Instr}
    (h : decode (.element site bytes) = .instr i rest) : i.isCommand = false := by
  cases site with
  | toc => cases bytes <;> cases h; rfl
  | lut => cases bytes <;> cases h; rfl
  | shape => exact isCommand_of_decodeShape h
  | fl => exact isCommand_of_decodeFl h
  | pad => exact isCommand_of_decodePad h

/-- Every row of the CSR port is a command. -/
theorem isCommand_of_decode_csr {a : CsrAccess} {rest : List Byte} {i : Instr} (h : decode (.csr a) = .instr i rest) :
    i.isCommand = true := by
  simp only [decode, decodeCsr, decodeCsrWrite, decodeCtrl] at h
  split_ifs at h <;> cases h <;> rfl

end Sys2Proof

namespace Sys2Proof.Machine

/-- Every row that is no command is a move of the decode. -/
theorem exec_decodeMove {i : Instr} {s t : State} (hi : i.isCommand = false) (h : exec i s = .next t) :
    DecodeMove s t := by
  cases i <;> cases h
  case tocSplit | cfgLut | padCont => exact .goOn (.ofWork _ rfl rfl rfl)
  case pktC3M0 | pktC3Mbig49 | pktC3Mbig50to51 | pktC3Mbig52to55 | pktC3Mbig56to63 => exact .c3Illegal _ s
  case pktC0 =>
    refine .after ?_ (.finishPlain _ _)
    split_ifs
    · exact .refl s
    · exact .latchVerdict s _
  case pktC1 => exact .after (.latchVerdict s _) (.finishPlain _ _)
  case pktC2 =>
    split_ifs
    · exact .c2Second s
    · exact .c2First s
  case pktC3Vbr =>
    split_ifs
    · exact .vbrLast s
    · exact .goOn (.c3Header _ s)
  case pktC3Cbr =>
    split_ifs
    · exact .cbrDispatch s
    · exact .cbrFinish s
    · exact .goOn (.c3Header _ s)
  case flZero | fl2b | fl1b => exact .goOn (.flReturn _ _ s)
  case padTerm b =>
    exact .goOn (.trans (.ofWork { (padAccumulate b.toNat s).w with
      off := BitVec.ofNat 24 (2 + (padAccumulate b.toNat s).w.np.toNat) } rfl rfl rfl) (.afterPadding _))
  all_goals cases hi

/-! ## The engine step -/

/-- What a running engine finds: the end of the decode, a row of the bitstream, or the two rows of the TOC byte. -/
inductive ElementFetch : Fetch → Prop where
  | error (e : ErrKind) : ElementFetch (.error e)
  | row {i : Instr} (hi : i.isCommand = false) : ElementFetch (.run i)
  | toc (b : Byte) : ElementFetch (fetchedToc b)

theorem elementFetch_fetched (site : Site) (bytes : List Byte) : ElementFetch (fetched (decode (.element site bytes))) := by
  cases h : decode (.element site bytes) with
  | instr i rest => exact .row (isCommand_of_decode_element h)
  | reject r => exact .error _

theorem elementFetch_fetchWindow (s : State) : ElementFetch (fetchWindow s) := .row (isCommand_decodeWindow _ _)

theorem elementFetch_fetchByte (s : State) (n : Nat) {site : Byte → Fetch} (h : ∀ b, ElementFetch (site b)) :
    ElementFetch (fetchByte s n site) := by
  unfold fetchByte
  split
  · exact .error _
  · split
    · exact .error _
    · exact h _

/-- Outside BUSY the engine finds nothing to do (70_reset_and_hazards R320). -/
theorem fetch_of_not_busy {s : State} (h : s.busy = false) : fetch s = .quiet := by
  unfold State.busy State.visible at h
  unfold fetch
  cases hst : s.w.state with
  | sIdle | sWaitBnd | sDone => rfl
  | _ => rw [hst] at h; cases h

/-- In BUSY it finds an element of the bitstream, or the end of the decode (42_packet_fsm R180). -/
theorem elementFetch_of_busy {s : State} (h : s.busy = true) : ElementFetch (fetch s) := by
  unfold State.busy State.visible at h
  unfold fetch
  cases hst : s.w.state with
  | sIdle | sWaitBnd | sDone => rw [hst] at h; cases h
  | sToc => exact elementFetch_fetchByte s 0 .toc
  | sFc => exact elementFetch_fetchByte s 1 fun _ => elementFetch_fetched _ _
  | sPad => exact elementFetch_fetchByte s _ fun _ => elementFetch_fetched _ _
  | sVlen =>
    dsimp only
    split
    · exact .error _
    · exact elementFetch_fetched _ _
  | sSd | sC2a | sC2b | sVlast | sCbr | sCfin => exact elementFetch_fetchWindow s

/-- The two rows of the TOC byte together are progress (42_packet_fsm R162). -/
theorem decodeMove_toc {b : Byte} {s t : State} (hf : fetch s = fetchedToc b) (h : engineStep s = .next t) :
    DecodeMove s t := by
  unfold engineStep at h
  rw [hf] at h
  cases h
  exact .goOn (.ofWork _ rfl rfl rfl)

/-- An engine step is a stutter outside BUSY, and a move of the decode in BUSY. -/
theorem engineStep_moves {s t : State} (h : engineStep s = .next t) :
    s.busy = false ∧ t = s ∨ s.busy = true ∧ DecodeMove s t := by
  cases hb : s.busy with
  | false =>
    rw [engineStep, fetch_of_not_busy hb] at h
    cases h
    exact .inl ⟨rfl, rfl⟩
  | true =>
    refine .inr ⟨rfl, ?_⟩
    have hf := elementFetch_of_busy hb
    generalize hx : fetch s = x at hf
    cases hf with
    | error e => rw [engineStep, hx] at h; cases h; exact .raiseError e s
    | row hi => rw [engineStep, hx] at h; exact exec_decodeMove hi h
    | toc b => exact decodeMove_toc hx h

/-! ## The commands -/

/-- What a command of the CSR port does (44_host_interface R250–R257), by the shape of its effect. -/
inductive CommandMove (s : State) : State → Prop where
  | control (le ie : Bool) : CommandMove s (s.writeCtrl le ie)
  | start (le ie : Bool) (h : s.acceptsStart = true) : CommandMove s (startDecode (s.writeCtrl le ie))
  | resume (le ie : Bool) (h : s.w.state = .sWaitBnd) : CommandMove s (resume (s.writeCtrl le ie))
  | abort (le ie : Bool) : CommandMove s ((s.writeCtrl le ie).goto .sIdle)
  | irqAck : CommandMove s { s with csr := { s.csr with irqPend := false } }
  | bufBase (d : Word) :
      CommandMove s { s with csr := { s.csr with bufBase := BitVec.ofNat 32 (d.toNat % 2 ^ s.platform.addrW) } }
  | bufLen (d : Word) : CommandMove s { s with csr := { s.csr with bufLen := d.setWidth 24 } }
  | bndTotal (d : Word) : CommandMove s { s with csr := { s.csr with bndTotal := d } }
  | read (k : Nat) : CommandMove s { s with rdata := s.csrRead k }

/-- The RESUME part of a CTRL write (43_boundary R226): it acts in WAIT_BND alone. -/
theorem commandMove_resumeIfWaiting (le ie : Bool) (s : State) : CommandMove s (resumeIfWaiting (s.writeCtrl le ie)) := by
  rw [resumeIfWaiting, writeCtrl_w]
  split_ifs with h
  · exact .resume le ie h
  · exact .control le ie

theorem exec_commandMove {i : Instr} {s t : State} (hi : i.isCommand = true) (h : exec i s = .next t) :
    CommandMove s t := by
  cases i <;> cases h
  case cmdStart resumeBit le ie =>
    split_ifs with hs hr
    · exact .start le ie hs
    · exact commandMove_resumeIfWaiting le ie s
    · exact .control le ie
  case cmdResume le ie => exact commandMove_resumeIfWaiting le ie s
  case cmdAbort le ie => exact .abort le ie
  case wrCtrlCfg le ie => exact .control le ie
  case cmdIrqAck => exact .irqAck
  case wrBufBase d => exact .bufBase d
  case wrBufLen d => exact .bufLen d
  case wrBndTotal d => exact .bndTotal d
  case rdCsr o => exact .read _
  all_goals cases hi

/-! ## What every step keeps -/

/-- A property that each part of a step keeps: the host agent's own bookkeeping, a command, an engine step, a store, reset. -/
structure KeptByParts (P : State → Prop) : Prop where
  firmware : ∀ {s t}, OnlyFirmware s t → P s → P t
  command  : ∀ {s t}, CommandMove s t → P s → P t
  engine   : ∀ {s t}, engineStep s = .next t → P s → P t
  store    : ∀ a b {s}, P s → P (hostStore a b s)
  reset    : ∀ {s}, P s → P (resetBlock s)

section
variable {P : State → Prop} (hP : KeptByParts P)
include hP

theorem KeptByParts.csrPort {a : CsrAccess} {s t : State} (h : csrPort a s = .next t) (hs : P s) : P t := by
  unfold Machine.csrPort at h
  split at h
  next i rest hd => exact hP.command (exec_commandMove (isCommand_of_decode_csr hd) h) hs
  all_goals cases h
  all_goals exact hs

theorem KeptByParts.bufferStore {a : Word} {b : Byte} {s t : State} (h : bufferStore a b s = .next t) (hs : P s) :
    P t := by
  unfold Machine.bufferStore at h
  split at h <;> cases h
  exact hP.store a b hs

theorem KeptByParts.busAccess {write : Bool} {addr : Word} {width : Width} {data : Word} {s t : State}
    (h : busAccess write addr width data s = .next t) (hs : P s) : P t := by
  unfold Machine.busAccess at h
  split at h
  · exact hP.csrPort h hs
  · cases h
    refine hP.firmware ?_ hs
    split <;> exact onlyFirmware_refl s

/-- A read at the port, then the host agent's own bookkeeping: POLL, or the firmware's load of a word. -/
theorem KeptByParts.readThen {a : CsrAccess} {f : State → State} (hf : ∀ u, OnlyFirmware u (f u)) {s t : State}
    (h : andThen (Machine.csrPort a s) (fun u => .next (f u)) = .next t) (hs : P s) : P t := by
  cases hu : Machine.csrPort a s with
  | next u => rw [hu] at h; cases h; exact hP.firmware (hf u) (hP.csrPort hu hs)
  | fault r => rw [hu] at h; cases h
  | refused r => rw [hu] at h; cases h

theorem KeptByParts.hostStep {op : HostOp} {s t : State} (h : hostStep op s = .next t) (hs : P s) : P t := by
  cases op with
  | csr a => exact hP.csrPort h hs
  | store a b => exact hP.bufferStore h hs
  | busWrite addr width data => exact hP.busAccess h hs
  | busRead addr width => exact hP.busAccess h hs
  | reset => cases h; exact hP.reset hs
  | engine => exact hP.engine h hs
  | poll offset mask value => exact hP.readThen (fun u => by split <;> exact onlyFirmware_refl u) h hs
  | waitIrq => cases h; exact hP.firmware (by split <;> exact onlyFirmware_refl s) hs
  | fwSearch | sweep => cases h; exact hP.firmware (onlyFirmware_refl s) hs
  | decodePacket a n => cases h; exact hP.firmware (fwDecodePacketOp_frame a n s) hs
  | fwAnswer => cases h; exact hP.firmware (fwAnswerOp_frame s) hs
  | fwLoad offset =>
    exact hP.readThen (f := fun u => u.setFw { u.fw with words := u.fw.words ++ [u.rdata] })
      (fun u => onlyFirmware_refl u) h hs
  | fwReturn => cases h; exact hP.firmware (fwReturnOp_frame s) hs
  | fwFrames => cases h; exact hP.firmware (fwFramesOp_frame s) hs
  | fwRecord => cases h; exact hP.firmware (fwRecordOp_frame s) hs
  | scanStream a L cur => cases h; exact hP.firmware (scanStreamOp_frame a L cur s) hs
  | scan a L => cases h; exact hP.firmware (scanOp_frame a L s) hs
  | scanNext a L => cases h; exact hP.firmware (scanNextOp_frame a L s) hs
  | probe a L q left => cases h; exact hP.firmware (probeOp_frame a L q left s) hs
  | probeNext a L q left => cases h; exact hP.firmware (probeNextOp_frame a L q left s) hs
  | sweepNext a L => cases h; exact hP.firmware (sweepNextOp_frame a L s) hs

/-- What every part of a step keeps, every step keeps. -/
theorem KeptByParts.step {s t : State} (h : step s = .next t) (hs : P s) : P t := by
  cases hops : s.host with
  | nil => rw [step_engine s hops] at h; exact hP.engine h hs
  | cons op rest =>
    rw [step_host s op rest hops] at h
    exact hP.hostStep h (hP.firmware (onlyFirmware_refl s) hs)

end

/-! ## `SpaceInv` -/

/-- `SpaceInv` is about memory, the platform and the two base addresses alone. -/
theorem SpaceInv.congr {s t : State} (h : SpaceInv s) (hmem : t.mem = s.mem) (hplat : t.platform = s.platform)
    (hbuf : t.csr.bufBase = s.csr.bufBase) (hbase : t.w.base = s.w.base) : SpaceInv t where
  mem     := hmem ▸ h.mem
  addrW   := hplat ▸ h.addrW
  csrBase := hplat ▸ h.csrBase
  bufBase := by rw [hbuf, hplat]; exact h.bufBase
  base    := by rw [hbase, hplat]; exact h.base

/-- An address cut to `ADDR_W` bits fits them. -/
theorem toNat_ofNat_mod_two_pow_lt (n w : Nat) : (BitVec.ofNat 32 (n % 2 ^ w)).toNat < 2 ^ w := by
  rw [BitVec.toNat_ofNat]
  exact (Nat.mod_le _ _).trans_lt (Nat.mod_lt _ (Nat.two_pow_pos w))

theorem SpaceInv.decodeMove {s t : State} (h : SpaceInv s) (hm : DecodeMove s t) :
    SpaceInv t ∧ t.platform = s.platform := by
  obtain ⟨hmem, hplat, hbuf, hbase⟩ := hm.frame
  exact ⟨h.congr hmem hplat hbuf hbase, hplat⟩

theorem SpaceInv.command {s t : State} (h : SpaceInv s) (hm : CommandMove s t) :
    SpaceInv t ∧ t.platform = s.platform := by
  cases hm with
  | start le ie _ => exact ⟨⟨h.mem, h.addrW, h.csrBase, h.bufBase, toNat_ofNat_mod_two_pow_lt _ _⟩, rfl⟩
  | resume le ie _ =>
    have hctrl : SpaceInv (s.writeCtrl le ie) := h.congr rfl rfl rfl rfl
    exact hctrl.decodeMove (.resume _)
  | bufBase d => exact ⟨⟨h.mem, h.addrW, h.csrBase, toNat_ofNat_mod_two_pow_lt _ _, h.base⟩, rfl⟩
  | control | abort | irqAck | bufLen | bndTotal | read => exact ⟨h.congr rfl rfl rfl rfl, rfl⟩

theorem SpaceInv.engineStep {s t : State} (h : SpaceInv s) (he : engineStep s = .next t) :
    SpaceInv t ∧ t.platform = s.platform := by
  obtain ⟨-, rfl⟩ | ⟨-, hm⟩ := engineStep_moves he
  · exact ⟨h, rfl⟩
  · exact h.decodeMove hm

theorem SpaceInv.hostStore (a : Word) (b : Byte) {s : State} (h : SpaceInv s) :
    SpaceInv (hostStore a b s) ∧ (hostStore a b s).platform = s.platform := by
  obtain ⟨hcsr, hw, -, -, hplat⟩ := hostStore_frame a b s
  refine ⟨⟨hostStore_wf a b s h.mem, ?_, ?_, ?_, ?_⟩, hplat⟩
  · rw [hplat]; exact h.addrW
  · rw [hplat]; exact h.csrBase
  · rw [hcsr, hplat]; exact h.bufBase
  · rw [hw, hplat]; exact h.base

/-- Reset keeps memory and the platform, and clears the base addresses. -/
theorem SpaceInv.resetBlock {s : State} (h : SpaceInv s) : SpaceInv (resetBlock s) :=
  ⟨h.mem, h.addrW, h.csrBase, Nat.two_pow_pos _, Nat.two_pow_pos _⟩

/-- `SpaceInv` together with the platform being `p`. -/
def SpaceInvOn (p : Platform) (s : State) : Prop := SpaceInv s ∧ s.platform = p

theorem keptByParts_spaceInvOn (p : Platform) : KeptByParts (SpaceInvOn p) where
  firmware := fun ⟨hcsr, hw, hmem, _, hplat⟩ ⟨h, hp⟩ =>
    ⟨h.congr hmem hplat (by rw [hcsr]) (by rw [hw]), hplat.trans hp⟩
  command := fun hm ⟨h, hp⟩ => (h.command hm).imp_right (·.trans hp)
  engine := fun he ⟨h, hp⟩ => (h.engineStep he).imp_right (·.trans hp)
  store := fun a b _ ⟨h, hp⟩ => (h.hostStore a b).imp_right (·.trans hp)
  reset := fun ⟨h, hp⟩ => ⟨h.resetBlock, hp⟩

/-! ## `StatusInv` -/

/-- `StatusInv` is about the engine state and the three flags alone. -/
theorem StatusInv.congr {s t : State} (h : StatusInv s) (hstate : t.w.state = s.w.state)
    (hvalid : t.csr.resultValid = s.csr.resultValid) (hunres : t.csr.unresolved = s.csr.unresolved)
    (herr : t.csr.err = s.csr.err) : StatusInv t := by
  have hvis : t.visible = s.visible := by rw [State.visible, hstate, State.visible]
  refine ⟨?_, ?_, ?_⟩
  · rw [hvis, hvalid, hunres, herr]; exact h.running
  · rw [hunres, hvalid]; exact h.unresolved
  · rw [herr, hvalid]; exact h.err

/-- With all three flags clear the life cycle holds in any engine state. -/
theorem statusInv_of_clear {t : State} (hvalid : t.csr.resultValid = false) (hunres : t.csr.unresolved = false)
    (herr : t.csr.err = none) : StatusInv t :=
  ⟨fun _ => ⟨hvalid, hunres, herr⟩, fun h => by simp [hunres] at h, fun h => absurd herr h⟩

/-- With the engine at rest, what is left to hold is how the three flags go together. -/
theorem statusInv_of_rest {t : State} (hrest : t.visible = .idle ∨ t.visible = .done)
    (hunres : t.csr.unresolved = true → t.csr.resultValid = true) (herr : t.csr.err ≠ none → t.csr.resultValid = false) :
    StatusInv t := by
  refine ⟨fun hrun => ?_, hunres, herr⟩
  obtain h | h := hrest <;> simp [h] at hrun

/-- A decode starts with the flags clear (R31), so each of its moves keeps the life cycle. -/
theorem StatusInv.decodeMove {s t : State} (h : StatusInv s) (hrun : s.visible = .busy ∨ s.visible = .waitBnd)
    (hm : DecodeMove s t) : StatusInv t := by
  obtain ⟨hvalid, hunres, herr⟩ := h.running hrun
  have clear : ∀ {u : State}, SameButProgress s u →
      u.csr.resultValid = false ∧ u.csr.unresolved = false ∧ u.csr.err = none := fun hu => by
    rw [hu.csr]; exact ⟨hvalid, hunres, herr⟩
  cases hm with
  | goOn hu =>
    obtain ⟨hv, hn, he⟩ := clear hu
    exact statusInv_of_clear hv hn he
  | ask hu =>
    obtain ⟨hv, hn, he⟩ := clear hu
    exact statusInv_of_clear hv hn he
  | fail hu e =>
    obtain ⟨hv, hn, -⟩ := clear hu
    exact statusInv_of_rest (.inr rfl) (fun hn' => absurd (hn'.symm.trans hn) (by decide)) fun _ => hv
  | succeed hu r => exact statusInv_of_rest (.inr rfl) (fun _ => rfl) fun he => absurd rfl he

theorem StatusInv.command {s t : State} (h : StatusInv s) (hm : CommandMove s t) : StatusInv t := by
  cases hm with
  | start le ie _ => exact statusInv_of_clear rfl rfl rfl
  | resume le ie hwait =>
    have hctrl : StatusInv (s.writeCtrl le ie) := h.congr rfl rfl rfl rfl
    have hrun : (s.writeCtrl le ie).visible = .waitBnd := by rw [State.visible, writeCtrl_w, hwait]; rfl
    exact hctrl.decodeMove (.inr hrun) (.resume _)
  | abort le ie => exact statusInv_of_rest (.inl rfl) h.unresolved h.err
  | control | irqAck | bufBase | bufLen | bndTotal | read => exact h.congr rfl rfl rfl rfl

theorem visible_of_busy {s : State} (h : s.busy = true) : s.visible = .busy := eq_of_beq h

theorem StatusInv.engineStep {s t : State} (h : StatusInv s) (he : engineStep s = .next t) : StatusInv t := by
  obtain ⟨-, rfl⟩ | ⟨hbusy, hm⟩ := engineStep_moves he
  · exact h
  · exact h.decodeMove (.inl (visible_of_busy hbusy)) hm

theorem statusInv_resetBlock (s : State) : StatusInv (resetBlock s) := statusInv_of_clear rfl rfl rfl

theorem keptByParts_statusInv : KeptByParts StatusInv where
  firmware := fun ⟨hcsr, hw, _⟩ h => h.congr (by rw [hw]) (by rw [hcsr]) (by rw [hcsr]) (by rw [hcsr])
  command := fun hm h => h.command hm
  engine := fun he h => h.engineStep he
  store := fun a b {s} h => by
    obtain ⟨hcsr, hw, -⟩ := hostStore_frame a b s
    exact h.congr (by rw [hw]) (by rw [hcsr]) (by rw [hcsr]) (by rw [hcsr])
  reset := fun _ => statusInv_resetBlock _

/-! ## Reserved bits and offsets (10_state R43) -/

/-- A zero-extended field has no bit where the mask lies above it. -/
theorem setWidth_and_eq_zero {n : Nat} (x : BitVec n) {mask : Word} (h : mask.setWidth n = 0#n) :
    x.setWidth 32 &&& mask = 0#32 := by
  ext i hi
  by_cases hn : i < n
  · have hm : mask[i] = false := by
      simpa [hn, BitVec.getLsbD_eq_getElem hi] using congrArg (fun y => y.getLsbD i) h
    simp [hm]
  · simp [BitVec.getLsbD_of_ge x i (Nat.le_of_not_lt hn)]

/-- Words that agree under a mask have the same bits inside it. -/
theorem getLsbD_eq_of_and_eq {d d' mask : Word} (h : d &&& mask = d' &&& mask) {i : Nat} (hi : mask.getLsbD i = true) :
    d.getLsbD i = d'.getLsbD i := by
  simpa [hi] using congrArg (fun y => y.getLsbD i) h

theorem ctrlRead_reserved (s : State) : s.ctrlRead &&& 0xFFFFFCFF#32 = 0#32 := by
  unfold State.ctrlRead
  cases s.csr.lenExact <;> cases s.csr.irqEn <;> rfl

/-- The fields of `STATUS` leave its reserved bits 0. -/
theorem statusWord_reserved : ∀ v < 4, ∀ r < 2, ∀ u < 2, ∀ e < 5, ∀ q < 2,
    BitVec.ofNat 32 (v + 16 * r + 32 * u + 256 * e + 65536 * q) &&& 0xFFFEF8CC#32 = 0#32 := by decide

theorem Visible.code_lt (v : Visible) : v.code < 4 := by cases v <;> decide

theorem errCode_lt : ∀ e : Option ErrKind, errCode e < 5
  | none => by decide
  | some e => by cases e <;> decide

theorem statusRead_reserved (s : State) : s.statusRead &&& 0xFFFEF8CC#32 = 0#32 :=
  statusWord_reserved _ s.visible.code_lt _ (Bool.toNat_lt _) _ (Bool.toNat_lt _) _ (errCode_lt _) _ (Bool.toNat_lt _)

theorem Pkt.word_reserved (p : Pkt) : p.word &&& 0xFFFFF8C0#32 = 0#32 := by
  have hcount : p.frameCount.setWidth 32 &&& 0xFFFFF8C0#32 = 0#32 := setWidth_and_eq_zero _ rfl
  have hflags : ∀ a b c : Bool, ((BitVec.ofBool a).setWidth 32 <<< 8 ||| (BitVec.ofBool b).setWidth 32 <<< 9
      ||| (BitVec.ofBool c).setWidth 32 <<< 10) &&& 0xFFFFF8C0#32 = 0#32 := by decide
  rw [Pkt.word, BitVec.or_assoc, BitVec.or_assoc, ← BitVec.or_assoc (x := BitVec.setWidth 32 (.ofBool _) <<< 8),
    BitVec.and_or_distrib_right, hcount, hflags]
  rfl

/-- The read map at FRAME_SIZE (R39). -/
theorem csrRead_frameSize (s : State) {k : Nat} (hk : k < 48) :
    s.csrRead (0x100 + 4 * k) = (FrameFile.at s.csr.frameSize k).setWidth 32 := by
  have hindex : (0x100 + 4 * k - 0x100) / 4 = k := by omega
  unfold State.csrRead
  simp (disch := omega) only [if_neg, if_pos, hindex]

theorem csrRead_reserved (s : State) {k : Nat} (hk : 0x034 ≤ k ∧ k ≤ 0x0FF ∨ 0x1C0 ≤ k) : s.csrRead k = 0#32 := by
  unfold State.csrRead
  simp (disch := omega) only [if_neg]

/-- A write to an offset without a row changes nothing. -/
theorem csrPort_write_ignored (s : State) {o : BitVec 9} (d : Word) (hctrl : o ≠ 0x000#9) (hstatus : o ≠ 0x004#9)
    (hbase : o ≠ 0x008#9) (hlen : o ≠ 0x00C#9) (htotal : o ≠ 0x030#9) (halign : o.toNat % 4 = 0) :
    csrPort { write := true, offset := o, width := .word, data := d } s = .next s := by
  have hd : decode (.csr { write := true, offset := o, width := .word, data := d }) = .reject (.ignoredWrite o) := by
    simp [decode, decodeCsr, CsrAccess.supported, halign, decodeCsrWrite, hctrl, hstatus, hbase, hlen, htotal]
  rw [csrPort, hd]

theorem decode_ctrlWrite (d : Word) : decode (csrWriteOf 0x000#9 d) = .instr (decodeCtrl d) [] := by
  simp [csrWriteOf, decode, decodeCsr, CsrAccess.supported, decodeCsrWrite]

theorem decode_statusWrite (d : Word) : decode (csrWriteOf 0x004#9 d) =
    if d.getLsbD 16 then .instr .cmdIrqAck [] else .reject (.ignoredWrite 0x004#9) := by
  simp [csrWriteOf, decode, decodeCsr, CsrAccess.supported, decodeCsrWrite]

/-- A CTRL write is read from bits 0, 1, 2, 8 and 9 alone. -/
theorem decodeCtrl_congr {d d' : Word} (h : d &&& 0x307#32 = d' &&& 0x307#32) : decodeCtrl d = decodeCtrl d' := by
  have h0 : d.getLsbD 0 = d'.getLsbD 0 := getLsbD_eq_of_and_eq h rfl
  have h1 : d.getLsbD 1 = d'.getLsbD 1 := getLsbD_eq_of_and_eq h rfl
  have h2 : d.getLsbD 2 = d'.getLsbD 2 := getLsbD_eq_of_and_eq h rfl
  have h8 : d.getLsbD 8 = d'.getLsbD 8 := getLsbD_eq_of_and_eq h rfl
  have h9 : d.getLsbD 9 = d'.getLsbD 9 := getLsbD_eq_of_and_eq h rfl
  rw [decodeCtrl, decodeCtrl, h0, h1, h2, h8, h9]

theorem exec_wrBufBase_congr (s : State) {d d' : Word}
    (h : d.toNat % 2 ^ s.platform.addrW = d'.toNat % 2 ^ s.platform.addrW) :
    exec (.wrBufBase d) s = exec (.wrBufBase d') s := by
  simp only [exec, execWrBufBase, h]

theorem exec_wrBufLen_congr (s : State) {d d' : Word} (h : d &&& 0xFFFFFF#32 = d' &&& 0xFFFFFF#32) :
    exec (.wrBufLen d) s = exec (.wrBufLen d') s := by
  have hcut : ∀ x : Word, (x &&& 0xFFFFFF#32).setWidth 24 = x.setWidth 24 := fun x => by
    rw [BitVec.setWidth_and, show (0xFFFFFF#32).setWidth 24 = BitVec.allOnes 24 from rfl, BitVec.and_allOnes]
  have hlen : d.setWidth 24 = d'.setWidth 24 := by rw [← hcut d, h, hcut d']
  simp only [exec, execWrBufLen, hlen]

/-! ## Reset (10_state R61) -/

theorem spaceInv_reset : SpaceInv State.reset := ⟨rfl, by decide, rfl, by decide, by decide⟩

theorem statusInv_reset : StatusInv State.reset := statusInv_resetBlock State.reset

theorem resultInv_reset : ResultInv State.reset where
  frameMax := by decide
  beyondCount := by decide
  countMax := by decide
  sizes := fun h => absurd rfl h
  unresolved := fun h => by cases h
  unknown := fun h => by cases h
  header := fun h => absurd rfl h
  plain := fun h => absurd rfl h
  code3 := fun h => absurd rfl h

/-! ## The obligations -/

/-- Settles O35: each register's reserved bits by the fields it is made of, and each write by the bits it is read from. -/
theorem reservedAndReadOnly : Obligations.ReservedAndReadOnly := fun s o d =>
  ⟨fun hctrl hstatus hbase hlen htotal halign => csrPort_write_ignored s d hctrl hstatus hbase hlen htotal halign,
    fun _ hk => csrRead_reserved s hk,
    ctrlRead_reserved s,
    statusRead_reserved s,
    fun hspace => hspace.bufBase,
    setWidth_and_eq_zero s.csr.bufLen rfl,
    s.csr.pkt.word_reserved,
    setWidth_and_eq_zero s.csr.payloadOffset rfl,
    setWidth_and_eq_zero s.csr.totalSize rfl,
    setWidth_and_eq_zero s.csr.bndSig rfl,
    fun _ hk => by rw [csrRead_frameSize s hk]; exact setWidth_and_eq_zero _ rfl,
    fun d' h => by rw [decode_ctrlWrite, decode_ctrlWrite, decodeCtrl_congr h],
    fun d' h => by rw [decode_statusWrite, decode_statusWrite, h],
    fun _ h => exec_wrBufBase_congr s h,
    fun _ h => exec_wrBufLen_congr s h⟩

/-- Settles O46: every part of a step keeps `SpaceInv` on the platform it starts from. -/
theorem stepKeepsSpaceInv : Obligations.StepKeepsSpaceInv :=
  fun s _ hs hstep => (keptByParts_spaceInvOn s.platform).step hstep ⟨hs, rfl⟩

/-- Settles O48: every part of a step keeps `StatusInv`. -/
theorem stepKeepsStatusInv : Obligations.StepKeepsStatusInv :=
  fun _ _ hs hstep => keptByParts_statusInv.step hstep hs

/-- Settles O45: at reset the engine is in IDLE, every register is 0 and memory is empty. -/
theorem invariantsAtReset : Obligations.InvariantsAtReset :=
  ⟨spaceInv_reset, trivial, statusInv_reset, resultInv_reset⟩

end Sys2Proof.Machine

namespace Sys2Proof.Machine

/-! ## What stands around the block (20_memory R70, R72) -/

/-- Memory, the operations to come, the firmware's variables and the platform are the same. -/
structure SameSurroundings (s t : State) : Prop where
  mem      : t.mem = s.mem
  host     : t.host = s.host
  fw       : t.fw = s.fw
  platform : t.platform = s.platform

theorem SameSurroundings.read {s t : State} (h : SameSurroundings s t) (a : Nat) :
    Memory.read t.mem a = Memory.read s.mem a := by rw [h.mem]

theorem SameButProgress.surroundings {s u : State} (h : SameButProgress s u) : SameSurroundings s u :=
  ⟨h.mem, h.host, h.fw, h.platform⟩

theorem DecodeMove.surroundings {s t : State} (h : DecodeMove s t) : SameSurroundings s t := by
  cases h with
  | goOn hu => exact hu.surroundings
  | ask hu => exact ⟨hu.mem, hu.host, hu.fw, hu.platform⟩
  | fail hu e => exact ⟨hu.mem, hu.host, hu.fw, hu.platform⟩
  | succeed hu r => exact ⟨hu.mem, hu.host, hu.fw, hu.platform⟩

theorem CommandMove.surroundings {s t : State} (h : CommandMove s t) : SameSurroundings s t := by
  cases h with
  | resume le ie _ =>
    obtain ⟨hmem, hhost, hfw, hplat⟩ := (DecodeMove.resume (s.writeCtrl le ie)).surroundings
    exact ⟨hmem, hhost, hfw, hplat⟩
  | control | start | abort | irqAck | bufBase | bufLen | bndTotal | read => exact ⟨rfl, rfl, rfl, rfl⟩

theorem exec_surroundings {i : Instr} {s t : State} (h : exec i s = .next t) : SameSurroundings s t := by
  cases hi : i.isCommand with
  | false => exact (exec_decodeMove hi h).surroundings
  | true => exact (exec_commandMove hi h).surroundings

theorem engineStep_surroundings {s t : State} (h : engineStep s = .next t) : SameSurroundings s t := by
  obtain ⟨-, rfl⟩ | ⟨-, hm⟩ := engineStep_moves h
  · exact ⟨rfl, rfl, rfl, rfl⟩
  · exact hm.surroundings

/-! ## Host stores (20_memory R70, R83) -/

theorem busy_eq_true_iff (s : State) : s.busy = true ↔ s.visible = .busy := beq_iff_eq

theorem bufferStore_race {a : Word} {s : State} (b : Byte) (hbusy : s.visible = .busy) (ha : s.inBuffer a = true) :
    bufferStore a b s = .fault .bufferRace := by
  rw [bufferStore, (busy_eq_true_iff s).mpr hbusy, ha]; rfl

theorem bufferStore_of_not_race {a : Word} {s : State} (b : Byte) (h : ¬ (s.visible = .busy ∧ s.inBuffer a = true)) :
    bufferStore a b s = .next (hostStore a b s) := by
  rw [bufferStore, if_neg]
  rwa [Bool.and_eq_true, busy_eq_true_iff]

theorem hostStore_of_not_hole {a : Word} {s : State} (b : Byte) (h : isHole s.platform a.toNat = false) :
    hostStore a b s = { s with mem := Memory.write s.mem a.toNat b } := by
  rw [hostStore, h]; rfl

/-- A store is the next operation: the step is that store alone. -/
theorem step_store {s : State} {a : Word} {b : Byte} {ops : List HostOp} (h : s.host = .store a b :: ops) :
    step s = bufferStore a b { s with host := ops } := step_host s _ ops h

/-! ## The buffer's addresses (20_memory R71) -/

/-- From `b` on around the circle of `n` addresses, `a` is reached after `(a + n - b mod n) mod n` steps. -/
theorem add_wrapDistance_mod {n : Nat} (hn : 0 < n) (b a : Nat) : (b + (a + n - b % n) % n) % n = a % n := by
  have hdiv := Nat.div_add_mod b n
  have hlt := Nat.mod_lt b hn
  have hsum : b + (a + n - b % n) = a + n * (b / n + 1) := by rw [Nat.mul_add]; omega
  rw [Nat.add_mod_mod, hsum, Nat.add_mul_mod_self_left]

/-- The distance from `b` to `b + i` around the circle of `n` addresses is `i`, whole turns left out. -/
theorem wrapDistance_add {n : Nat} (hn : 0 < n) (b i : Nat) : ((b + i) % n + n - b % n) % n = i % n := by
  have hback := add_wrapDistance_mod hn b ((b + i) % n)
  rw [Nat.mod_mod] at hback
  have hcancel := Nat.ModEq.add_left_cancel' b hback
  rwa [Nat.ModEq, Nat.mod_mod] at hcancel

/-- The addresses a store may race for are those of the bytes `B(i)` with `i < w.L`. -/
theorem inBuffer_iff (s : State) (a : Word) :
    s.inBuffer a = true ↔ ∃ i < s.len, a.toNat = bufAddr s.platform s.w.base i := by
  have hn : 0 < 2 ^ s.platform.addrW := Nat.two_pow_pos _
  simp only [State.inBuffer, Bool.and_eq_true, decide_eq_true_eq, bufAddr, State.len]
  constructor
  · rintro ⟨hfits, hdist⟩
    exact ⟨_, hdist, by rw [add_wrapDistance_mod hn, Nat.mod_eq_of_lt hfits]⟩
  · rintro ⟨i, hi, ha⟩
    rw [ha, wrapDistance_add hn]
    exact ⟨Nat.mod_lt _ hn, (Nat.mod_le _ _).trans_lt hi⟩

/-! ## The codes read no byte past the buffer's end (20_memory R73) -/

theorem fldec_congr {L : Nat} {B B' : Nat → Option Byte} (h : ∀ i < L, B' i = B i) (i : Nat) :
    fldec L B' i = fldec L B i := by
  unfold fldec
  by_cases hi : i < L
  · rw [h i hi]
    by_cases hi1 : i + 1 < L
    · rw [h (i + 1) hi1]
    · simp only [if_pos (Nat.le_of_not_lt hi1)]
  · simp only [if_pos (Nat.le_of_not_lt hi)]

theorem flBytes_congr {L : Nat} {B B' : Nat → Option Byte} (h : ∀ i < L, B' i = B i) (i : Nat) :
    flBytes L B' i = flBytes L B i := by
  unfold flBytes
  by_cases hi : i < L
  · rw [h i hi]
    by_cases hi1 : i + 1 < L
    · rw [h (i + 1) hi1]
    · simp only [hi1, decide_false, Bool.and_false, Bool.false_eq_true, if_false]
  · simp only [if_pos (Nat.le_of_not_lt hi)]

/-! ## Another memory behind the block: what an engine step does commutes with the change -/

/-- The machine with memory `m` in place of its own. -/
def State.withMem (s : State) (m : Memory) : State := { s with mem := m }

@[simp] theorem withMem_w (s : State) (m : Memory) : (s.withMem m).w = s.w := rfl

@[simp] theorem withMem_off (s : State) (m : Memory) : (s.withMem m).off = s.off := rfl

theorem finish_withMem (x : Except ErrKind Result) (s : State) (m : Memory) :
    finish x (s.withMem m) = (finish x s).withMem m := by cases x <;> rfl

theorem finishPlain_withMem (x : Except ErrKind Result) (s : State) (m : Memory) :
    finishPlain x (s.withMem m) = (finishPlain x s).withMem m := by cases x <;> rfl

theorem latchVerdict_withMem (a : FlVerdict) (s : State) (m : Memory) :
    (s.withMem m).latchVerdict a = (s.latchVerdict a).withMem m := by cases a <;> rfl

theorem afterPadding_withMem (s : State) (m : Memory) : afterPadding (s.withMem m) = (afterPadding s).withMem m := by
  rw [afterPadding, afterPadding, apply_ite (State.withMem · m)]; rfl

theorem c3Header_withMem (fc : Byte) (s : State) (m : Memory) :
    c3Header fc (s.withMem m) = (c3Header fc s).withMem m := by
  rw [c3Header, c3Header, apply_ite (State.withMem · m), ← afterPadding_withMem]; rfl

theorem flReturn_withMem (size n : Nat) (s : State) (m : Memory) :
    flReturn size n (s.withMem m) = (flReturn size n s).withMem m := by
  simp only [flReturn, vlenStore, apply_ite (State.withMem · m)]; rfl

theorem vbrLast_withMem (s : State) (m : Memory) : vbrLast (s.withMem m) = (vbrLast s).withMem m := by
  simp only [vbrLast, apply_ite (State.withMem · m)]; rfl

theorem cbrDispatch_withMem (s : State) (m : Memory) : cbrDispatch (s.withMem m) = (cbrDispatch s).withMem m := by
  simp only [cbrDispatch, boundaryVerdict, cbrFinish, apply_ite (State.withMem · m), ← finish_withMem]; rfl

/-- Memory `m` shows the running decode the same buffer: the same byte or bus error below `w.L`. -/
def SameBuffer (s : State) (m : Memory) : Prop := ∀ i < s.len, (s.withMem m).B i = s.B i

section
variable {s : State} {m : Memory} (hB : SameBuffer s m)
include hB

theorem SameBuffer.fldec_eq (i : Nat) : fldec (s.withMem m).len (s.withMem m).B i = fldec s.len s.B i := fldec_congr hB i

theorem SameBuffer.flBytes_eq (i : Nat) : flBytes (s.withMem m).len (s.withMem m).B i = flBytes s.len s.B i :=
  flBytes_congr hB i

theorem SameBuffer.c0Rule_eq : c0Rule (s.withMem m).len (s.withMem m).B = c0Rule s.len s.B := by
  rw [c0Rule, hB.fldec_eq]; rfl

theorem SameBuffer.c2First_withMem : c2First (s.withMem m) = (c2First s).withMem m := by
  rw [c2First, c2First, hB.fldec_eq]
  cases fldec s.len s.B 1 <;> rfl

theorem SameBuffer.c2Second_withMem : c2Second (s.withMem m) = (c2Second s).withMem m := by
  rw [c2Second, c2Second, hB.fldec_eq, ← finishPlain_withMem, ← latchVerdict_withMem]; rfl

/-- A row of the bitstream: only FLDEC of codes 0–2 reads the buffer. -/
theorem SameBuffer.exec_withMem {i : Instr} (hi : i.isCommand = false) :
    exec i (s.withMem m) = andThen (exec i s) fun t => .next (t.withMem m) := by
  cases i
  case tocSplit | cfgLut | padCont => rfl
  case pktC3M0 | pktC3Mbig49 | pktC3Mbig50to51 | pktC3Mbig52to55 | pktC3Mbig56to63 => rfl
  case pktC0 =>
    refine congrArg Host.Outcome.next ?_
    rw [hB.c0Rule_eq, hB.fldec_eq, ← finishPlain_withMem, apply_ite (State.withMem · m), ← latchVerdict_withMem]; rfl
  case pktC1 =>
    refine congrArg Host.Outcome.next ?_
    rw [hB.fldec_eq, ← finishPlain_withMem, ← latchVerdict_withMem]; rfl
  case pktC2 =>
    refine congrArg Host.Outcome.next ?_
    rw [apply_ite (State.withMem · m), ← hB.c2Second_withMem, ← hB.c2First_withMem]; rfl
  case pktC3Vbr =>
    refine congrArg Host.Outcome.next ?_
    rw [apply_ite (State.withMem · m), ← vbrLast_withMem, ← c3Header_withMem]; rfl
  case pktC3Cbr =>
    refine congrArg Host.Outcome.next ?_
    simp only [cbrFinish, apply_ite (State.withMem · m), ← cbrDispatch_withMem, ← finish_withMem, ← c3Header_withMem]; rfl
  case flZero | fl2b | fl1b => exact congrArg Host.Outcome.next (flReturn_withMem _ _ s m)
  case padTerm =>
    refine congrArg Host.Outcome.next ?_
    rw [← afterPadding_withMem]; rfl
  all_goals cases hi

theorem SameBuffer.fetchByte_eq (i : Nat) (site : Byte → Fetch) :
    fetchByte (s.withMem m) i site = fetchByte s i site := by
  unfold fetchByte
  by_cases hi : i < s.len
  · rw [hB i hi]; rfl
  · rw [if_pos (Nat.le_of_not_lt hi)]; exact if_pos (Nat.le_of_not_lt hi)

theorem SameBuffer.fetch_eq : fetch (s.withMem m) = fetch s := by
  unfold fetch
  rw [withMem_w]
  cases s.w.state with
  | sToc | sFc | sPad => exact hB.fetchByte_eq _ _
  | sVlen =>
    dsimp only
    rw [withMem_off, hB.flBytes_eq]
  | _ => rfl

theorem SameBuffer.engineStep_withMem : engineStep (s.withMem m) = andThen (engineStep s) fun t => .next (t.withMem m) := by
  unfold engineStep
  rw [hB.fetch_eq]
  cases hbusy : s.busy with
  | false => rw [fetch_of_not_busy hbusy]; rfl
  | true =>
    have hf := elementFetch_of_busy hbusy
    generalize fetch s = x at hf
    cases hf with
    | error e => rfl
    | row hi => exact hB.exec_withMem hi
    | toc b => rfl

end

/-! ## The obligations -/

/-- Settles O54: the engine's fetch and FLDEC are the only readers of memory, and both check `w.L` first. -/
theorem engineReadsOnlyItsBuffer : Obligations.EngineReadsOnlyItsBuffer := fun _ _ hB => SameBuffer.engineStep_withMem hB

/-- Settles O40: every row is a move of the decode or a command, and neither touches memory. -/
theorem engineNeverWritesMemory : Obligations.EngineNeverWritesMemory := by
  refine ⟨fun i s t h => ?_, fun s t h => ?_⟩
  · have hsame := exec_surroundings h
    exact ⟨hsame.read, hsame.mem, hsame.host, hsame.fw, hsame.platform⟩
  · have hsame := engineStep_surroundings h
    exact ⟨hsame.read, hsame.mem, hsame.host, hsame.fw, hsame.platform⟩

/-- Settles O41: the store is a write to canonical memory, read back at its own address and at every other. -/
theorem hostStoreWritesOneByte : Obligations.HostStoreWritesOneByte := by
  intro s a b ops hhost hwf hhole hrace
  refine ⟨{ s with host := ops, mem := Memory.write s.mem a.toNat b }, ?_, ?_, ?_, rfl, rfl, rfl, rfl, rfl, rfl⟩
  · rw [step_store hhost, bufferStore_of_not_race (s := { s with host := ops }) b hrace,
      hostStore_of_not_hole (s := { s with host := ops }) b hhole]
  · exact Memory.read_write_same b hwf
  · exact fun a' hne => Memory.read_write_other b hne

/-- Settles O42: the distance from `w.BASE` around the address circle is the buffer offset. -/
theorem raceIsAStoreIntoTheBuffer : Obligations.RaceIsAStoreIntoTheBuffer := by
  refine fun s a => ⟨inBuffer_iff s a, fun b ops i hhost hbusy hi ha => ?_⟩
  rw [step_store hhost]
  exact bufferStore_race b hbusy ((inBuffer_iff s a).mpr ⟨i, hi, ha⟩)

/-- Settles O43: `2^ADDR_W` wraps to address 0. -/
theorem bufferReadWraps : Obligations.BufferReadWraps := by
  refine fun s i => ⟨rfl, fun hwrap => ?_⟩
  rw [State.B, bufAddr, hwrap, Nat.mod_self]

end Sys2Proof.Machine

namespace Sys2Proof

/-! ## Operand ranges of what the decoder reads (30_encoding R94, R96, R99) -/

theorem mInRange_of_le {lo hi : Nat} {m : BitVec 6} (hlo : lo ≤ m.toNat) (hhi : m.toNat ≤ hi) :
    mInRange lo hi m = true := by
  simp [mInRange, hlo, hhi]

theorem flIsTwo_iff (b0 : Byte) : flIsTwo b0 = true ↔ 252 ≤ b0.toNat := decide_eq_true_iff

/-- Each code-3 row is chosen where the rows before it leave exactly its frame counts. -/
theorem wf_decodeCode3 (toc fc : Byte) : (decodeCode3 toc fc).wf = true := by
  have hlt := (fcM fc).isLt
  unfold decodeCode3
  split_ifs with h0 h48 _ h49 h51 h55
  · rfl
  · exact mInRange_of_le (Nat.pos_of_ne_zero h0) h48
  · exact mInRange_of_le (Nat.pos_of_ne_zero h0) h48
  · rfl
  · exact mInRange_of_le (by omega) h51
  · exact mInRange_of_le (by omega) h55
  · exact mInRange_of_le (by omega) (by omega)

theorem wf_decodeWindow (toc fc : Byte) : (decodeWindow toc fc).wf = true := by
  unfold decodeWindow
  split_ifs
  · rfl
  · rfl
  · rfl
  · exact wf_decodeCode3 toc fc

/-- What the shape site reads is the shape of some window. -/
theorem eq_decodeWindow_of_decodeShape {bytes rest : List Byte} {i : Instr} (h : decodeShape bytes = .instr i rest) :
    ∃ toc fc, i = decodeWindow toc fc := by
  unfold decodeShape at h
  split at h
  · cases h
  next toc _ =>
    split at h
    · split at h <;> cases h
      exact ⟨toc, _, rfl⟩
    · cases h; exact ⟨toc, 0#8, rfl⟩

theorem wf_of_decodeFl {bytes rest : List Byte} {i : Instr} (h : decodeFl bytes = .instr i rest) : i.wf = true := by
  unfold decodeFl at h
  split at h
  · cases h
  next b0 _ =>
    split_ifs at h with h0 h2
    · cases h; rfl
    · split at h <;> cases h
      exact h2
    · cases h
      rw [flIsTwo_iff] at h2
      have hpos : b0.toNat ≠ 0 := fun hz => h0 (BitVec.eq_of_toNat_eq hz)
      rw [Instr.wf, Bool.and_eq_true, decide_eq_true_iff, decide_eq_true_iff]
      omega

theorem wf_of_decodePad {bytes rest : List Byte} {i : Instr} (h : decodePad bytes = .instr i rest) : i.wf = true := by
  unfold decodePad at h
  split at h <;> cases h
  next b =>
    split_ifs with h255
    · rfl
    · have hlt := b.isLt
      have hne : b.toNat ≠ 255 := fun he => h255 (BitVec.eq_of_toNat_eq he)
      exact decide_eq_true (by omega)

/-- A command takes every operand value. -/
theorem wf_of_isCommand {i : Instr} (h : i.isCommand = true) : i.wf = true := by
  cases i
  case cmdStart | cmdResume | cmdAbort | wrCtrlCfg | cmdIrqAck | wrBufBase | wrBufLen | wrBndTotal | rdCsr => rfl
  all_goals cases h

theorem wf_of_decode_element {site : Site} {bytes rest : List Byte} {i : Instr}
    (h : decode (.element site bytes) = .instr i rest) : i.wf = true := by
  cases site with
  | toc => cases bytes <;> cases h; rfl
  | lut => cases bytes <;> cases h; rfl
  | shape =>
    obtain ⟨toc, fc, rfl⟩ := eq_decodeWindow_of_decodeShape h
    exact wf_decodeWindow toc fc
  | fl => exact wf_of_decodeFl h
  | pad => exact wf_of_decodePad h

/-! ## The first row of a table (30_encoding R104) -/

/-- A mask that covers the row's takes away no bit the row looks at. -/
theorem Pattern.fits_and {p : Pattern} {mask : Nat} (h : mask &&& p.mask = p.mask) (x : Nat) :
    p.fits (x &&& mask) = p.fits x := by
  rw [Pattern.fits, Pattern.fits, Nat.and_assoc, h]

/-- The first row depends on the bits inside the rows' masks alone. -/
theorem firstRow_and {ps : List Pattern} {mask : Nat} (h : ∀ p ∈ ps, mask &&& p.mask = p.mask) (x : Nat) :
    firstRow ps (x &&& mask) = firstRow ps x := by
  unfold firstRow
  congr 1
  funext k
  rw [List.find?_congr fun p hp => Pattern.fits_and (h p (List.mem_of_mem_filter hp)) x]

/-! ### The `W16` rows (R93, R99) -/

/-- The masks of the `W16` rows together leave `c`, `v` and `M` of a window. -/
theorem window_and_masks (toc fc : Byte) : (toc.toNat * 256 + fc.toNat) &&& 0x3BF =
    (tocCode toc).toNat * 256 + ((fcV fc).toNat * 128 + (fcM fc).toNat) := by
  have htoc : toc.toNat &&& 3 = (tocCode toc).toNat := by revert toc; decide
  have hfc : fc.toNat &&& 0xBF = (fcV fc).toNat * 128 + (fcM fc).toNat := by revert fc; decide
  have hlt := fc.isLt
  have hhigh := Nat.and_div_two_pow (a := toc.toNat * 256 + fc.toNat) (b := 0x3BF) (n := 8)
  have hlow := Nat.and_mod_two_pow (a := toc.toNat * 256 + fc.toNat) (b := 0x3BF) (n := 8)
  rw [show (toc.toNat * 256 + fc.toNat) / 2 ^ 8 = toc.toNat by omega, show 0x3BF / 2 ^ 8 = 3 from rfl, htoc] at hhigh
  rw [show (toc.toNat * 256 + fc.toNat) % 2 ^ 8 = fc.toNat by omega, show 0x3BF % 2 ^ 8 = 0xBF from rfl, hfc] at hlow
  omega

/-- The row of a window depends on `c`, `v` and `M` alone; the other fields are operands. -/
theorem row_decodeWindow_congr {toc toc' fc fc' : Byte} (hcode : tocCode toc = tocCode toc') (hv : fcV fc = fcV fc')
    (hm : fcM fc = fcM fc') : (decodeWindow toc fc).row = (decodeWindow toc' fc').row := by
  simp only [decodeWindow, decodeCode3, apply_ite Instr.row, hcode, hv, hm]
  rfl

/-- The windows whose other fields are 0, one for each `c`, `v` and `M`. -/
theorem firstRow_windowPatterns_fields : ∀ (c : BitVec 2) (v : Bool) (m : BitVec 6),
    firstRow windowPatterns (c.toNat * 256 + (v.toNat * 128 + m.toNat)) =
      some (decodeWindow (tocByte 0#5 false c) (fcByte v false m)).row := by decide

/-! ### The `FL` and `PAD` rows (R94, R96, R102) -/

theorem firstRow_flPatterns (b0 : Byte) : firstRow flPatterns b0.toNat =
    some (if b0 = 0#8 then .FL_ZERO else if flIsTwo b0 then .FL_2B else .FL_1B) := by
  revert b0; decide

theorem firstRow_padPatterns (b : Byte) :
    firstRow padPatterns b.toNat = some (if b = 255#8 then .PAD_CONT else .PAD_TERM) := by
  revert b; decide

/-- `b0[7:2] = 111111` is `252 ≤ b0` (R94). -/
theorem extractLsb'_eq_63_iff (b0 : Byte) : b0.extractLsb' 2 6 = 63#6 ↔ flIsTwo b0 = true := by
  revert b0; decide

/-- An FL code where two bytes are there to read. -/
theorem decodeFl_cons_cons (b0 b1 : Byte) (rest : List Byte) : decodeFl (b0 :: b1 :: rest) =
    if b0 = 0#8 then .instr .flZero (b1 :: rest)
    else if flIsTwo b0 then .instr (.fl2b b0 b1) rest
    else .instr (.fl1b b0) (b1 :: rest) := rfl

theorem decodeFl_firstRow (b0 b1 : Byte) (rest : List Byte) : ∃ i,
    decodeFl (b0 :: b1 :: rest) = .instr i (if b0.extractLsb' 2 6 = 63#6 then rest else b1 :: rest) ∧
      firstRow flPatterns b0.toNat = some i.row := by
  simp only [decodeFl_cons_cons, firstRow_flPatterns, extractLsb'_eq_63_iff]
  by_cases h0 : b0 = 0#8
  · subst h0
    exact ⟨.flZero, rfl, rfl⟩
  · by_cases h2 : flIsTwo b0 = true
    · exact ⟨.fl2b b0 b1, by simp only [if_neg h0, if_pos h2], by simp only [if_neg h0, if_pos h2, Instr.row]⟩
    · exact ⟨.fl1b b0, by simp only [if_neg h0, if_neg h2], by simp only [if_neg h0, if_neg h2, Instr.row]⟩

/-! ### The CTRL rows (R105) -/

/-- The row of a CTRL word depends on its command bits alone; the configuration bits are operands. -/
theorem row_decodeCtrl_congr {d d' : Word} (h : ∀ k < 3, d.getLsbD k = d'.getLsbD k) :
    (decodeCtrl d).row = (decodeCtrl d').row := by
  simp only [decodeCtrl, apply_ite Instr.row, h 0 (by decide), h 1 (by decide), h 2 (by decide)]
  rfl

/-- The CTRL words with no bit but the command bits. -/
theorem firstRow_ctrlPatterns_commands : ∀ n < 2 ^ 3,
    firstRow ctrlPatterns n = some (decodeCtrl (BitVec.ofNat 32 n)).row := by decide

theorem firstRow_ctrlPatterns (d : Word) : firstRow ctrlPatterns d.toNat = some (decodeCtrl d).row := by
  have hbits : ∀ k < 3, (BitVec.ofNat 32 (d.toNat % 2 ^ 3)).getLsbD k = d.getLsbD k := fun k hk => by
    rw [BitVec.getLsbD_ofNat, Nat.testBit_mod_two_pow, BitVec.testBit_toNat, decide_eq_true hk,
      decide_eq_true (hk.trans (by decide : 3 < 32))]
    rfl
  calc firstRow ctrlPatterns d.toNat
      = firstRow ctrlPatterns (d.toNat &&& (2 ^ 3 - 1)) := (firstRow_and (by decide) _).symm
    _ = firstRow ctrlPatterns (d.toNat % 2 ^ 3) := by rw [Nat.and_two_pow_sub_one_eq_mod]
    _ = some (decodeCtrl (BitVec.ofNat 32 (d.toNat % 2 ^ 3))).row :=
        firstRow_ctrlPatterns_commands _ (Nat.mod_lt _ (by decide))
    _ = some (decodeCtrl d).row := by rw [row_decodeCtrl_congr hbits]

/-! ## The obligations -/

/-- Settles O1: the round trip of each row. -/
theorem decodeOfEncodeIsIdentity : Obligations.DecodeOfEncodeIsIdentity := by
  intro i
  cases i with
  | tocSplit config stereo code => exact Laws.RoundTrip.tocSplit config stereo code
  | cfgLut config => exact Laws.RoundTrip.cfgLut config
  | pktC3M0 config stereo v p => exact Laws.RoundTrip.pktC3M0 config stereo v p
  | pktC3Mbig49 config stereo v p => exact Laws.RoundTrip.pktC3Mbig49 config stereo v p
  | pktC3Mbig50to51 config stereo v p m => exact Laws.RoundTrip.pktC3Mbig50to51 config stereo v p m
  | pktC3Mbig52to55 config stereo v p m => exact Laws.RoundTrip.pktC3Mbig52to55 config stereo v p m
  | pktC3Mbig56to63 config stereo v p m => exact Laws.RoundTrip.pktC3Mbig56to63 config stereo v p m
  | pktC0 config stereo => exact Laws.RoundTrip.pktC0 config stereo
  | pktC1 config stereo => exact Laws.RoundTrip.pktC1 config stereo
  | pktC2 config stereo => exact Laws.RoundTrip.pktC2 config stereo
  | pktC3Vbr config stereo p m => exact Laws.RoundTrip.pktC3Vbr config stereo p m
  | pktC3Cbr config stereo p m => exact Laws.RoundTrip.pktC3Cbr config stereo p m
  | flZero => exact Laws.RoundTrip.flZero
  | fl2b b0 b1 => exact Laws.RoundTrip.fl2b b0 b1
  | fl1b b0 => exact Laws.RoundTrip.fl1b b0
  | padCont => exact Laws.RoundTrip.padCont
  | padTerm b => exact Laws.RoundTrip.padTerm b
  | cmdStart resume lenExact irqEn => exact Laws.RoundTrip.cmdStart resume lenExact irqEn
  | cmdResume lenExact irqEn => exact Laws.RoundTrip.cmdResume lenExact irqEn
  | cmdAbort lenExact irqEn => exact Laws.RoundTrip.cmdAbort lenExact irqEn
  | wrCtrlCfg lenExact irqEn => exact Laws.RoundTrip.wrCtrlCfg lenExact irqEn
  | cmdIrqAck => exact Laws.RoundTrip.cmdIrqAck
  | wrBufBase data => exact Laws.RoundTrip.wrBufBase data
  | wrBufLen data => exact Laws.RoundTrip.wrBufLen data
  | wrBndTotal data => exact Laws.RoundTrip.wrBndTotal data
  | rdCsr offset => exact Laws.RoundTrip.rdCsr offset

/-- Settles O2: by the site of the element; the CSR port reads commands, whose operands have no range. -/
theorem decodedInstrIsWellFormed : Obligations.DecodedInstrIsWellFormed := by
  intro e i rest h
  cases e with
  | element site bytes => exact wf_of_decode_element h
  | csr a => exact wf_of_isCommand (isCommand_of_decode_csr h)

/-- Settles O3: table and decoder look at the same fields, `c`, `v` and `M`. -/
theorem windowDecoderFollowsOpcodeTable : Obligations.WindowDecoderFollowsOpcodeTable := by
  intro toc fc
  rw [← firstRow_and (mask := 0x3BF) (by decide), window_and_masks, firstRow_windowPatterns_fields,
    row_decodeWindow_congr (tocCode_tocByte _ _ _) (fcV_fcByte _ _ _) (fcM_fcByte _ _ _)]

/-- Settles O4: FL and PAD by the first byte, CTRL by the command bits. -/
theorem codeDecoderFollowsOpcodeTable : Obligations.CodeDecoderFollowsOpcodeTable := by
  refine ⟨decodeFl_firstRow, fun b rest => ⟨_, rfl, ?_⟩,
    fun d => ⟨_, Machine.decode_ctrlWrite d, firstRow_ctrlPatterns d⟩⟩
  rw [firstRow_padPatterns, apply_ite Instr.row]
  rfl

/-- Settles O21: each of the five meanings is the illegal FC byte with its own frame count. -/
theorem illegalFrameCountRows : Obligations.IllegalFrameCountRows := by
  intro config stereo v p m s i h
  obtain ⟨rfl, rfl⟩ | ⟨rfl, rfl⟩ | rfl | rfl | rfl := h
  all_goals rfl

end Sys2Proof

namespace Sys2Proof

/-! ## The fields of the TOC byte as numbers (40_toc_config R120) -/

theorem toNat_tocConfig (b : Byte) : (tocConfig b).toNat = b.toNat / 8 := by
  have hlt := b.isLt
  rw [tocConfig, BitVec.extractLsb'_toNat, Nat.shiftRight_eq_div_pow]
  omega

theorem tocStereo_eq (b : Byte) : tocStereo b = decide (b.toNat / 4 % 2 = 1) :=
  Nat.testBit_eq_decide_div_mod_eq

theorem toNat_tocCode (b : Byte) : (tocCode b).toNat = b.toNat % 4 := by
  rw [tocCode, BitVec.extractLsb'_toNat, Nat.shiftRight_zero]

theorem decode_toc (b : Byte) (rest : List Byte) :
    decode (.element .toc (b :: rest)) = .instr (.tocSplit (tocConfig b) (tocStereo b) (tocCode b)) rest := rfl

end Sys2Proof

namespace Sys2Proof.Machine

/-! ## The two rows of the TOC byte (42_packet_fsm R162) -/

/-- The shape by the number of the code (42_packet_fsm R163). -/
theorem stateOfCode_eq : ∀ code : BitVec 2,
    stateOfCode code = if code.toNat ≤ 1 then .sSd else if code.toNat = 2 then .sC2a else .sFc := by decide

/-- TOC_SPLIT on the fields of a byte holds that byte and its fields. -/
theorem exec_tocSplit_fields (b : Byte) (s : State) :
    exec (.tocSplit (tocConfig b) (tocStereo b) (tocCode b)) s =
      .next { s with w := { s.w with
        toc := b, fc := 0#8, off := 1#24, fields := tocSplit b, state := stateOfCode (tocCode b) } } := by
  rw [exec, execTocSplit, tocByte_fields]

theorem exec_cfgLut (config : BitVec 5) (s : State) :
    exec (.cfgLut config) s = .next { s with w := { s.w with lut := cfgLut config } } := rfl

/-! ### The closed form of the configuration table (40_toc_config R123), by mode -/

/-- SILK: four durations from 10 ms for each of NB, MB and WB. -/
theorem cfgLut_silk : ∀ config : BitVec 5, config.toNat ≤ 11 →
    (cfgLut config).mode.code = 0 ∧ (cfgLut config).bw.code = config.toNat / 4 ∧
      (cfgLut config).dur.code = 2 + config.toNat % 4 := by decide

/-- Hybrid: 10 and 20 ms for each of SWB and FB. -/
theorem cfgLut_hybrid : ∀ config : BitVec 5, 12 ≤ config.toNat → config.toNat ≤ 15 →
    (cfgLut config).mode.code = 1 ∧ (cfgLut config).bw.code = 3 + config.toNat / 2 % 2 ∧
      (cfgLut config).dur.code = 2 + config.toNat % 2 := by decide

/-- CELT: four durations from 2.5 ms for each of NB, WB, SWB and FB. -/
theorem cfgLut_celt : ∀ config : BitVec 5, 16 ≤ config.toNat →
    (cfgLut config).mode.code = 2 ∧ (cfgLut config).bw.code = [0, 2, 3, 4].getD (config.toNat / 4 % 4) 0 ∧
      (cfgLut config).dur.code = config.toNat % 4 := by decide

/-! ## The obligations -/

/-- Settles O5: the bitstream words by their sites, the register words by what a write to CTRL or STATUS is read as. -/
theorem sampleWordsDecode : Obligations.SampleWordsDecode :=
  ⟨decode_toc 0x0B#8 [], rfl, rfl, rfl, decode_ctrlWrite _, decode_ctrlWrite _, decode_ctrlWrite _, decode_statusWrite _⟩

/-- Settles O13: the fields of the byte, which together give the byte back. -/
theorem tocSplitRow : Obligations.TocSplitRow := by
  refine fun b s => ⟨tocConfig b, tocStereo b, tocCode b, decode_toc b [], toNat_tocConfig b, tocStereo_eq b,
    toNat_tocCode b, ?_⟩
  rw [exec_tocSplit_fields, stateOfCode_eq, toNat_tocCode, tocSplit]

/-- Settles O14: the closed form holds in each mode's range of configurations. -/
theorem configLutRow : Obligations.ConfigLutRow := fun config s =>
  ⟨cfgLut config, exec_cfgLut config s, cfgLut_silk config, cfgLut_hybrid config, cfgLut_celt config⟩

end Sys2Proof.Machine

namespace Sys2Proof.Machine

/-! ## The frame-length code (41_vlc R140) -/

/-- FLDEC by the first byte it reads: each of its equations for a code that begins in the buffer starts here. -/
theorem fldec_of_first {L i : Nat} {B : Nat → Option Byte} {b0 : Byte} (hi : i < L) (h0 : B i = some b0) :
    fldec L B i =
      if 252 ≤ b0.toNat then
        if L ≤ i + 1 then .insufficient
        else (B (i + 1)).elim .busError fun b1 => .ok (4 * b1.toNat + b0.toNat) 2
      else .ok b0.toNat 1 := by
  simp only [fldec, if_neg (Nat.not_le_of_lt hi), h0, flIsTwo_iff]
  cases B (i + 1) <;> rfl

theorem fldec_of_le {L i : Nat} (B : Nat → Option Byte) (hi : L ≤ i) : fldec L B i = .insufficient := if_pos hi

theorem fldec_of_unread {L i : Nat} {B : Nat → Option Byte} (hi : i < L) (h0 : B i = none) : fldec L B i = .busError := by
  simp only [fldec, if_neg (Nat.not_le_of_lt hi), h0]

theorem fldec_oneByte {L i : Nat} {B : Nat → Option Byte} {b0 : Byte} (hi : i < L) (h0 : B i = some b0)
    (hone : b0.toNat ≤ 251) : fldec L B i = .ok b0.toNat 1 := by
  rw [fldec_of_first hi h0, if_neg (by omega)]

theorem fldec_cut {L i : Nat} {B : Nat → Option Byte} {b0 : Byte} (hi : i < L) (h0 : B i = some b0)
    (htwo : 252 ≤ b0.toNat) (hend : L ≤ i + 1) : fldec L B i = .insufficient := by
  rw [fldec_of_first hi h0, if_pos htwo, if_pos hend]

theorem fldec_second {L i : Nat} {B : Nat → Option Byte} {b0 : Byte} (hi : i + 1 < L) (h0 : B i = some b0)
    (htwo : 252 ≤ b0.toNat) :
    fldec L B i = (B (i + 1)).elim .busError fun b1 => .ok (4 * b1.toNat + b0.toNat) 2 := by
  rw [fldec_of_first (by omega) h0, if_pos htwo, if_neg (by omega)]

theorem fldec_twoBytes {L i : Nat} {B : Nat → Option Byte} {b0 b1 : Byte} (hi : i + 1 < L) (h0 : B i = some b0)
    (htwo : 252 ≤ b0.toNat) (h1 : B (i + 1) = some b1) : fldec L B i = .ok (4 * b1.toNat + b0.toNat) 2 := by
  rw [fldec_second hi h0 htwo, h1, Option.elim_some]

/-- A code that FLDEC answers lies in the buffer: one byte up to 251, or a first byte from 252 on and a second. -/
theorem fldec_ok_cases {L i size n : Nat} {B : Nat → Option Byte} (h : fldec L B i = .ok size n) :
    i + n ≤ L ∧ ∃ b0, B i = some b0 ∧ (b0.toNat ≤ 251 ∧ size = b0.toNat ∧ n = 1 ∨
      ∃ b1, B (i + 1) = some b1 ∧ 252 ≤ b0.toNat ∧ size = 4 * b1.toNat + b0.toNat ∧ n = 2) := by
  by_cases hi : i < L
  case neg => simp [fldec_of_le B (Nat.le_of_not_lt hi)] at h
  cases h0 : B i with
  | none => simp [fldec_of_unread hi h0] at h
  | some b0 =>
    by_cases htwo : 252 ≤ b0.toNat
    · by_cases hi1 : i + 1 < L
      · rw [fldec_second hi1 h0 htwo] at h
        cases h1 : B (i + 1) with
        | none => simp [h1] at h
        | some b1 =>
          rw [h1, Option.elim_some, FlVerdict.ok.injEq] at h
          obtain ⟨rfl, rfl⟩ := h
          exact ⟨hi1, b0, rfl, .inr ⟨b1, rfl, htwo, rfl, rfl⟩⟩
      · simp [fldec_cut hi h0 htwo (Nat.le_of_not_lt hi1)] at h
    · have hone : b0.toNat ≤ 251 := by omega
      rw [fldec_oneByte hi h0 hone, FlVerdict.ok.injEq] at h
      obtain ⟨rfl, rfl⟩ := h
      exact ⟨hi, b0, rfl, .inl ⟨hone, rfl, rfl⟩⟩

/-- The code is self-delimiting: its first byte alone fixes the count (R142). -/
theorem fldec_ok_count {L i size n : Nat} {B : Nat → Option Byte} (h : fldec L B i = .ok size n) :
    (B i).map (fun b0 => if 252 ≤ b0.toNat then 2 else 1) = some n := by
  obtain ⟨-, b0, h0, ⟨hone, -, rfl⟩ | ⟨b1, -, htwo, -, rfl⟩⟩ := fldec_ok_cases h
  · rw [h0, Option.map_some, if_neg (by omega)]
  · rw [h0, Option.map_some, if_pos htwo]

/-! ### The FL decoder as a sub-block (R141) -/

/-- The sub-block's test of the six upper bits is the test of R140. -/
theorem upperBits_eq_flIsTwo (b0 : Byte) :
    (b0.getLsbD 7 && b0.getLsbD 6 && b0.getLsbD 5 && b0.getLsbD 4 && b0.getLsbD 3 && b0.getLsbD 2) = flIsTwo b0 := by
  revert b0; decide

theorem flDecoder_oneByte {b0 : Byte} (hone : b0.toNat ≤ 251) (haveB0 : Bool) (b1 : Byte) (haveB1 : Bool) :
    flDecoder b0 haveB0 b1 haveB1 = { size := b0.setWidth 11, nbytes := 1#2, insufficient := !haveB0 } := by
  have hflag : flIsTwo b0 = false := decide_eq_false (by omega)
  simp only [flDecoder, upperBits_eq_flIsTwo, hflag, Bool.false_eq_true, if_false, Bool.false_and, Bool.or_false]

theorem flDecoder_twoBytes {b0 : Byte} (htwo : 252 ≤ b0.toNat) (haveB0 : Bool) (b1 : Byte) (haveB1 : Bool) :
    flDecoder b0 haveB0 b1 haveB1 = { size := (b1.setWidth 11 <<< 2) + b0.setWidth 11, nbytes := 2#2,
                                      insufficient := !haveB0 || !haveB1 } := by
  simp only [flDecoder, upperBits_eq_flIsTwo, (flIsTwo_iff b0).mpr htwo, if_true, Bool.true_and]

/-- Eleven bits hold the largest size, 1275. -/
theorem toNat_flSize (b0 b1 : Byte) :
    ((b1.setWidth 11 <<< 2) + b0.setWidth 11 : BitVec 11).toNat = 4 * b1.toNat + b0.toNat := by
  simp only [BitVec.toNat_add, BitVec.toNat_shiftLeft, BitVec.toNat_setWidth, Nat.shiftLeft_eq]
  omega

/-- With the presence of each byte given by the length, the sub-block answers what FLDEC answers. -/
theorem fldec_eq_flDecoder {L i : Nat} {B : Nat → Option Byte} {b0 b1 : Byte} (h0 : i < L → B i = some b0)
    (h1 : 252 ≤ b0.toNat → i + 1 < L → B (i + 1) = some b1) {o : FlPorts}
    (ho : o = flDecoder b0 (decide (i < L)) b1 (decide (i + 1 < L))) :
    fldec L B i = if o.insufficient then .insufficient else .ok o.size.toNat o.nbytes.toNat := by
  subst ho
  by_cases hi : i < L
  case neg => simp [fldec_of_le B (Nat.le_of_not_lt hi), flDecoder, hi]
  by_cases htwo : 252 ≤ b0.toNat
  · by_cases hi1 : i + 1 < L
    · rw [fldec_twoBytes hi1 (h0 hi) htwo (h1 htwo hi1), flDecoder_twoBytes htwo, toNat_flSize]
      simp [hi, hi1]
    · simp [fldec_cut hi (h0 hi) htwo (Nat.le_of_not_lt hi1), flDecoder_twoBytes htwo, hi1]
  · have hone : b0.toNat ≤ 251 := by omega
    have hsize : b0.toNat % 2048 = b0.toNat := Nat.mod_eq_of_lt (by omega)
    simp [fldec_oneByte hi (h0 hi) hone, flDecoder_oneByte hone, hi, hsize]

/-! ### The encoder (R146) -/

theorem flenc_oneByte {s : Nat} (h : s ≤ 251) : flenc s = [BitVec.ofNat 8 s] := if_pos h

theorem flenc_twoBytes {s : Nat} (hlow : 252 ≤ s) (hhigh : s ≤ 1275) : ∃ b0 b1 : Byte,
    flenc s = [b0, b1] ∧ b0.toNat = 252 + s % 4 ∧ b1.toNat = (s - b0.toNat) / 4 := by
  refine ⟨_, _, if_neg (by omega), ?_⟩
  simp only [BitVec.toNat_ofNat]
  omega

theorem fldec_flenc {s : Nat} (hs : s ≤ 1275) (tail : List Byte) :
    fldec (flenc s ++ tail).length (listBuffer (flenc s ++ tail)) 0 = .ok s (flenc s).length := by
  by_cases hone : s ≤ 251
  · have hb : (BitVec.ofNat 8 s).toNat = s := Nat.mod_eq_of_lt (by omega)
    rw [flenc_oneByte hone, fldec_oneByte (b0 := BitVec.ofNat 8 s) (by simp) rfl (by omega), hb]
    rfl
  · obtain ⟨b0, b1, henc, h0, h1⟩ := flenc_twoBytes (by omega) hs
    have hsize : 4 * b1.toNat + b0.toNat = s := by omega
    rw [henc, fldec_twoBytes (b0 := b0) (b1 := b1) (by simp) rfl (by omega) rfl, hsize]
    rfl

/-! ## The padding-length code (41_vlc R143) -/

/-- The loop passes a run of `n` bytes 255. -/
theorem paddecFrom_run {B : Nat → Option Byte} {i : Nat} (fuel : Nat) : ∀ (n total k : Nat),
    (∀ j < n, B (i + (k + j)) = some 255#8) →
      paddecFrom B i (n + fuel) total k = paddecFrom B i fuel (total + 254 * n) (k + n) := by
  intro n
  induction n with
  | zero => intro total k _; simp
  | succ n ih =>
    intro total k hrun
    have hrest : ∀ j < n, B (i + (k + 1 + j)) = some 255#8 := fun j hj => by
      rw [Nat.add_assoc k, Nat.add_comm 1 j]; exact hrun (j + 1) (by omega)
    calc paddecFrom B i (n + 1 + fuel) total k
        = paddecFrom B i (n + fuel) (total + 254) (k + 1) := by
          rw [Nat.add_right_comm, paddecFrom, show B (i + k) = some 255#8 from hrun 0 (by omega)]; rfl
      _ = paddecFrom B i fuel (total + 254 + 254 * n) (k + 1 + n) := ih _ _ hrest
      _ = paddecFrom B i fuel (total + 254 * (n + 1)) (k + (n + 1)) := by congr 1 <;> omega

section
variable {L i n : Nat} {B : Nat → Option Byte} (hrun : ∀ j < n, i + j < L ∧ B (i + j) = some 255#8)
include hrun

/-- After a run of `n` bytes 255 inside the buffer. -/
theorem paddec_run : paddec L B i = paddecFrom B i (L - (i + n)) (254 * n) n := by
  have hfuel : L - i = n + (L - (i + n)) := by
    cases n with
    | zero => omega
    | succ n => have := (hrun n (by omega)).1; omega
  rw [paddec, hfuel, paddecFrom_run _ n 0 0 fun j hj => by rw [Nat.zero_add]; exact (hrun j hj).2, Nat.zero_add, Nat.zero_add]

/-- After the run, with a byte left to read. -/
theorem paddec_run_next (hi : i + n < L) : paddec L B i = paddecFrom B i (L - (i + n + 1) + 1) (254 * n) n := by
  rw [paddec_run hrun]
  congr 1
  omega

theorem paddec_of_last {b : Byte} (hi : i + n < L) (hb : B (i + n) = some b) (hlast : b ≠ 255#8) :
    paddec L B i = .ok (254 * n + b.toNat) (n + 1) := by
  simp only [paddec_run_next hrun hi, paddecFrom, hb, if_neg hlast]

theorem paddec_of_end (hi : L ≤ i + n) : paddec L B i = .insufficient := by
  rw [paddec_run hrun, Nat.sub_eq_zero_of_le hi, paddecFrom]

theorem paddec_of_unread (hi : i + n < L) (hb : B (i + n) = none) : paddec L B i = .busError := by
  simp only [paddec_run_next hrun hi, paddecFrom, hb]

end

/-- No byte of a PAD code contributes more than 254. -/
theorem paddecFrom_ok_bound {B : Nat → Option Byte} {i p n : Nat} : ∀ (fuel total k : Nat), total ≤ 254 * k →
    paddecFrom B i fuel total k = .ok p n → k < n ∧ n ≤ k + fuel ∧ p ≤ 254 * n := by
  intro fuel
  induction fuel with
  | zero => intro total k _ h; simp [paddecFrom] at h
  | succ fuel ih =>
    intro total k htotal h
    cases hb : B (i + k) with
    | none => simp [paddecFrom, hb] at h
    | some b =>
      by_cases hlast : b = 255#8
      · simp only [paddecFrom, hb, if_pos hlast] at h
        have := ih (total + 254) (k + 1) (by omega) h
        omega
      · simp only [paddecFrom, hb, if_neg hlast, PadVerdict.ok.injEq] at h
        have : b.toNat ≠ 255 := fun hnat => hlast (BitVec.eq_of_toNat_eq hnat)
        omega

theorem paddec_ok_bound {L i total n : Nat} {B : Nat → Option Byte} (h : paddec L B i = .ok total n) :
    1 ≤ n ∧ i + n ≤ L ∧ total ≤ 254 * n := by
  have := paddecFrom_ok_bound (L - i) 0 0 (by omega) h
  omega

/-! ### The encoder (R147) -/

theorem padenc_of_multiple {p : Nat} (h : p % 254 = 0 ∧ 0 < p / 254) :
    padenc p = List.replicate (p / 254 - 1) 255#8 ++ [254#8] := if_pos h

theorem padenc_of_not_multiple {p : Nat} (h : ¬ (p % 254 = 0 ∧ 0 < p / 254)) :
    padenc p = List.replicate (p / 254) 255#8 ++ [BitVec.ofNat 8 (p % 254)] := if_neg h

/-- Either way it is a run of 255s and a last byte below 255 that together give the total. -/
theorem padenc_eq_run (p : Nat) : ∃ (n : Nat) (b : Byte),
    padenc p = List.replicate n 255#8 ++ [b] ∧ b ≠ 255#8 ∧ 254 * n + b.toNat = p := by
  by_cases h : p % 254 = 0 ∧ 0 < p / 254
  · exact ⟨_, _, padenc_of_multiple h, by decide, by simp only [BitVec.toNat_ofNat]; omega⟩
  · refine ⟨_, _, padenc_of_not_multiple h, fun hb => ?_, by simp only [BitVec.toNat_ofNat]; omega⟩
    have := congrArg BitVec.toNat hb
    simp only [BitVec.toNat_ofNat] at this
    omega

/-- PADDEC on a buffer that begins with a run of 255s and a last byte. -/
theorem paddec_replicate (n : Nat) {b : Byte} (hb : b ≠ 255#8) (tail : List Byte) :
    paddec (List.replicate n 255#8 ++ [b] ++ tail).length (listBuffer (List.replicate n 255#8 ++ [b] ++ tail)) 0 =
      .ok (254 * n + b.toNat) (n + 1) := by
  refine paddec_of_last (fun j hj => ⟨?_, ?_⟩) ?_ ?_ hb
  · simp; omega
  · simp [listBuffer, List.getElem?_append, hj]
  · simp
  · simp [listBuffer]

theorem paddec_padenc (p : Nat) (tail : List Byte) :
    paddec (padenc p ++ tail).length (listBuffer (padenc p ++ tail)) 0 = .ok p (padenc p).length := by
  obtain ⟨n, b, henc, hb, hp⟩ := padenc_eq_run p
  rw [henc, paddec_replicate n hb tail, hp]
  simp

/-! ## The rows of the codes -/

theorem flReturn_of_ne {s : State} (h : s.w.state ≠ .sVlen) (size n : Nat) : flReturn size n s = s.latchFl size n :=
  if_neg h

/-- The three cases after the padding code as one record. -/
theorem afterPadding_eq (s : State) : afterPadding s = { s with w := { s.w with
    sum := if s.v then 0#17 else s.w.sum
    k := if s.v then 0#6 else s.w.k
    state := if s.v then (if 2 ≤ s.m then .sVlen else .sVlast) else .sCbr } } := by
  obtain ⟨hv, hm, h⟩ | ⟨hv, hm, h⟩ | ⟨hv, h⟩ := afterPadding_cases s
  · simp [h, hv, hm]
  · simp [h, hv, Nat.not_le_of_lt hm]
  · simp [h, hv, State.goto]

theorem exec_padCont (s : State) : exec .padCont s = .next { s with w := { s.w with
    pad := BitVec.ofNat 32 (s.w.pad.toNat + 254), np := BitVec.ofNat 24 (s.w.np.toNat + 1)
    off := BitVec.ofNat 24 (s.w.off.toNat + 1) } } := rfl

/-- `w.V` and `w.M`, which choose the next state, are those of the FC byte, which the row keeps. -/
theorem exec_padTerm (b : Byte) (s : State) : exec (.padTerm b) s = .next { s with w := { s.w with
    pad := BitVec.ofNat 32 (s.w.pad.toNat + b.toNat), np := BitVec.ofNat 24 (s.w.np.toNat + 1)
    off := BitVec.ofNat 24 (2 + (BitVec.ofNat 24 (s.w.np.toNat + 1)).toNat)
    sum := if s.v then 0#17 else s.w.sum
    k := if s.v then 0#6 else s.w.k
    state := if s.v then (if 2 ≤ s.m then .sVlen else .sVlast) else .sCbr } } :=
  congrArg Host.Outcome.next (afterPadding_eq _)

/-! ### The PAD step as a sub-block (R144) -/

theorem padDecoderStep_acc_cont (acc : Word) (haveB : Bool) :
    (padDecoderStep 255#8 haveB acc).acc = BitVec.ofNat 32 (acc.toNat + 254) := by
  rw [BitVec.ofNat_add, BitVec.ofNat_toNat, BitVec.setWidth_eq]; rfl

theorem padDecoderStep_acc_term {b : Byte} (hb : b ≠ 255#8) (acc : Word) (haveB : Bool) :
    (padDecoderStep b haveB acc).acc = BitVec.ofNat 32 (acc.toNat + b.toNat) := by
  rw [BitVec.ofNat_add, BitVec.ofNat_toNat, BitVec.ofNat_toNat, BitVec.setWidth_eq, padDecoderStep, if_neg hb]

theorem padDecoderStep_done (b : Byte) (acc : Word) : (padDecoderStep b true acc).done = !decide (b = 255#8) :=
  Bool.true_and _

/-! ## The obligations -/

/-- Settles O6: FLDEC's equations, one for each ending. -/
theorem frameLengthDecoder : Obligations.FrameLengthDecoder := by
  refine fun L B i => ⟨fldec_of_le B, fldec_of_unread, fun _ => fldec_oneByte, fun _ => fldec_cut, ?_,
    fun _ _ => fldec_twoBytes⟩
  intro b0 hi h0 htwo h1
  rw [fldec_second hi h0 htwo, h1, Option.elim_none]

/-- Settles O7: a size of one byte is that byte; one of two bytes is at least 252 and at most `4 * 255 + 255`. -/
theorem frameLengthRange : Obligations.FrameLengthRange := by
  refine ⟨fun L B i size n h => ?_, fun _ _ _ _ _ _ _ _ _ _ hB h h' => ?_⟩
  · obtain ⟨-, b0, -, hone | ⟨b1, -, htwo⟩⟩ := fldec_ok_cases h <;> omega
  · have hcount := fldec_ok_count h
    rw [hB, fldec_ok_count h'] at hcount
    exact (Option.some.inj hcount).symm

/-- Settles O8: each of FLENC's two forms is read back by FLDEC's equation for it. -/
theorem frameLengthRoundTrip : Obligations.FrameLengthRoundTrip := fun _ tail hs =>
  ⟨fldec_flenc hs tail, flenc_oneByte, fun h => flenc_twoBytes h hs⟩

/-- Settles O9: the loop passes the run, and the byte after it gives the ending. -/
theorem paddingDecoder : Obligations.PaddingDecoder := fun _ _ _ _ hrun =>
  ⟨fun _ => paddec_of_last hrun, paddec_of_end hrun, paddec_of_unread hrun⟩

/-- Settles O10: no byte contributes more than 254, and all lie in the buffer. -/
theorem paddingTotalBound : Obligations.PaddingTotalBound := by
  intro _ _ _ _ _ h
  have hbound := paddec_ok_bound h
  omega

/-- Settles O11: PADENC writes a run that PADDEC sums back to the total. -/
theorem paddingRoundTrip : Obligations.PaddingRoundTrip :=
  ⟨paddec_padenc, fun _ hmod hdiv => padenc_of_multiple ⟨hmod, hdiv⟩, fun _ => padenc_of_not_multiple, by decide, by decide,
    by decide⟩

/-- Settles O15: outside `S_VLEN` an FL row is the latch alone. -/
theorem frameLengthRowsLatch : Obligations.FrameLengthRowsLatch := fun _ _ _ h =>
  ⟨congrArg Host.Outcome.next (flReturn_of_ne h _ _), congrArg Host.Outcome.next (flReturn_of_ne h _ _),
    congrArg Host.Outcome.next (flReturn_of_ne h _ _)⟩

/-- Settles O17: the accumulation, and for the last byte what follows the padding code. -/
theorem paddingRows : Obligations.PaddingRows := fun b s => ⟨exec_padCont s, exec_padTerm b s⟩

/-- Settles O12: both sub-blocks, the PAD step against the accumulator its rows leave. -/
theorem subBlocksComputeTheCodes : Obligations.SubBlocksComputeTheCodes := by
  refine ⟨fun _ _ _ _ _ _ h0 h1 ho => fldec_eq_flDecoder h0 h1 ho,
    fun b acc s hacc => ⟨rfl, rfl, rfl, fun hb => ?_, fun hb => ?_⟩⟩
  · exact ⟨by simp [padDecoderStep_done, hb], _, exec_padCont s, by rw [hb, padDecoderStep_acc_cont, hacc]⟩
  · exact ⟨by simp [padDecoderStep_done, hb], _, exec_padTerm b s, by rw [padDecoderStep_acc_term hb, hacc]⟩

end Sys2Proof.Machine

namespace Sys2Proof

/-! ## The row of a TOC/FC window, by its fields (30_encoding R93, R99) -/

theorem decodeWindow_code0 {toc : Byte} (h : tocCode toc = 0#2) (fc : Byte) :
    decodeWindow toc fc = .pktC0 (tocConfig toc) (tocStereo toc) := by
  rw [decodeWindow, if_pos h]

theorem decodeWindow_code1 {toc : Byte} (h : tocCode toc = 1#2) (fc : Byte) :
    decodeWindow toc fc = .pktC1 (tocConfig toc) (tocStereo toc) := by
  rw [decodeWindow, h]; rfl

theorem decodeWindow_code2 {toc : Byte} (h : tocCode toc = 2#2) (fc : Byte) :
    decodeWindow toc fc = .pktC2 (tocConfig toc) (tocStereo toc) := by
  rw [decodeWindow, h]; rfl

theorem decodeWindow_code3 {toc : Byte} (h : tocCode toc = 3#2) (fc : Byte) :
    decodeWindow toc fc = decodeCode3 toc fc := by
  rw [decodeWindow, h]; rfl

/-- The frame counts that a code-3 packet may have (42_packet_fsm R167). -/
def LegalCount (fc : Byte) : Prop := 1 ≤ (fcM fc).toNat ∧ (fcM fc).toNat ≤ 48

theorem decodeCode3_vbr (toc : Byte) {fc : Byte} (hm : LegalCount fc) (hv : fcV fc = true) :
    decodeCode3 toc fc = .pktC3Vbr (tocConfig toc) (tocStereo toc) (fcP fc) (fcM fc) := by
  rw [decodeCode3, if_neg (Nat.ne_of_gt hm.1), if_pos hm.2, if_pos hv]

theorem decodeCode3_cbr (toc : Byte) {fc : Byte} (hm : LegalCount fc) (hv : fcV fc = false) :
    decodeCode3 toc fc = .pktC3Cbr (tocConfig toc) (tocStereo toc) (fcP fc) (fcM fc) := by
  rw [decodeCode3, if_neg (Nat.ne_of_gt hm.1), if_pos hm.2, hv]; rfl

/-- The shape site reads a code-3 window of two bytes. -/
theorem decode_shape_code3 {toc : Byte} (h : tocCode toc = 3#2) (fc : Byte) :
    decode (.element .shape [toc, fc]) = .instr (decodeCode3 toc fc) [] := by
  rw [decode, decodeElement, decodeShape, if_pos h, decodeWindow_code3 h]

end Sys2Proof

namespace Sys2Proof.Machine

/-! ## Code-3 rows by the FC byte -/

/-- An illegal frame count, whichever of the five rows it is (R99, R167). -/
theorem exec_decodeCode3_illegal (toc : Byte) {fc : Byte} (hm : ¬ LegalCount fc) (s : State) :
    exec (decodeCode3 toc fc) s = .next (c3Illegal fc s) := by
  have hfields := fcByte_fields fc
  have hlow : (fcM fc).toNat = 0 ∨ 48 < (fcM fc).toNat := by unfold LegalCount at hm; omega
  unfold decodeCode3
  split_ifs with h0 h48 _ h49
  · rw [show fcM fc = 0#6 from BitVec.eq_of_toNat_eq h0] at hfields
    rw [← hfields]; simp only [fcV_fcByte, fcP_fcByte]; rfl
  · omega
  · omega
  · rw [show fcM fc = 49#6 from BitVec.eq_of_toNat_eq h49] at hfields
    rw [← hfields]; simp only [fcV_fcByte, fcP_fcByte]; rfl
  all_goals rw [exec]; exact congrArg (fun b => Host.Outcome.next (c3Illegal b s)) hfields

/-- A legal frame count at the FC byte: the header is read, VBR or CBR (R167). -/
theorem exec_decodeCode3_header (toc : Byte) {fc : Byte} (hm : LegalCount fc) {s : State} (hst : s.w.state = .sFc) :
    exec (decodeCode3 toc fc) s = .next (c3Header fc s) := by
  have hfields := fcByte_fields fc
  cases hv : fcV fc with
  | true => rw [decodeCode3_vbr toc hm hv, exec, execPktC3Vbr, hst, ← hv, hfields]; rfl
  | false => rw [decodeCode3_cbr toc hm hv, exec, execPktC3Cbr, hst, ← hv, hfields]; rfl

/-! ## One engine step by what the engine finds -/

theorem engineStep_of_error {s : State} {e : ErrKind} (h : fetch s = .error e) : engineStep s = .next (raiseError e s) := by
  rw [engineStep, h]

theorem engineStep_of_run {s : State} {i : Instr} (h : fetch s = .run i) : engineStep s = exec i s := by
  rw [engineStep, h]

theorem fetchByte_of_lt {s : State} {i : Nat} {b : Byte} (hi : i < s.len) (hb : s.B i = some b) (site : Byte → Fetch) :
    fetchByte s i site = site b := by
  simp only [fetchByte, if_neg (Nat.not_le_of_lt hi), hb]

/-- A byte at offset `i` is past the buffer, fails on the bus, or is read (20_memory R73, R89). -/
theorem fetchByte_cases (s : State) (i : Nat) (site : Byte → Fetch) :
    (s.len ≤ i ∧ fetchByte s i site = .error .insufficientData) ∨
      (i < s.len ∧ s.B i = none ∧ fetchByte s i site = .error .busError) ∨
      (∃ b, i < s.len ∧ s.B i = some b ∧ fetchByte s i site = site b) := by
  by_cases hi : s.len ≤ i
  · exact .inl ⟨hi, if_pos hi⟩
  have hlt : i < s.len := Nat.lt_of_not_le hi
  cases hb : s.B i with
  | none => exact .inr (.inl ⟨hlt, rfl, by simp only [fetchByte, if_neg hi, hb]⟩)
  | some b => exact .inr (.inr ⟨b, hlt, rfl, fetchByte_of_lt hlt hb site⟩)

/-! ### The fetch of each state that reads a byte -/

theorem fetch_sToc {s : State} (hst : s.w.state = .sToc) : fetch s = fetchByte s 0 fetchedToc := by
  rw [fetch, hst]

theorem fetch_sFc {s : State} (hst : s.w.state = .sFc) :
    fetch s = fetchByte s 1 fun fc => fetched (decode (.element .shape [s.w.toc, fc])) := by
  rw [fetch, hst]

theorem fetch_sPad {s : State} (hst : s.w.state = .sPad) :
    fetch s = fetchByte s (2 + s.w.np.toNat) fun b => fetched (decode (.element .pad [b])) := by
  rw [fetch, hst]

theorem fetch_sVlen_none {s : State} (hst : s.w.state = .sVlen) (hb : flBytes s.len s.B s.off = none) :
    fetch s = .error .busError := by
  simp only [fetch, hst, hb]

theorem fetch_sVlen_some {s : State} (hst : s.w.state = .sVlen) {bytes : List Byte}
    (hb : flBytes s.len s.B s.off = some bytes) : fetch s = fetched (decode (.element .fl bytes)) := by
  simp only [fetch, hst, hb]

/-- FLDEC and the decoder of the FL rows on the bytes that FLDEC reads: the same ending, and a row of the same size and
byte count. -/
theorem flBytes_cases (L : Nat) (B : Nat → Option Byte) (i : Nat) :
    (fldec L B i = .busError ∧ flBytes L B i = none) ∨
      (∃ bytes, flBytes L B i = some bytes ∧
        ((fldec L B i = .insufficient ∧ decode (.element .fl bytes) = .reject (.truncated .fl)) ∨
          ∃ size n j, fldec L B i = .ok size n ∧ decode (.element .fl bytes) = .instr j [] ∧
            ∀ s, exec j s = .next (flReturn size n s))) := by
  by_cases hi : L ≤ i
  · exact .inr ⟨[], if_pos hi, .inl ⟨fldec_of_le B hi, rfl⟩⟩
  have hlt : i < L := Nat.lt_of_not_le hi
  cases h0 : B i with
  | none => exact .inl ⟨fldec_of_unread hlt h0, by simp only [flBytes, if_neg hi, h0]⟩
  | some b0 =>
    by_cases htwo : 252 ≤ b0.toNat
    · have hflag := (flIsTwo_iff b0).mpr htwo
      have hne : b0 ≠ 0#8 := by rintro rfl; exact absurd htwo (by decide)
      by_cases hi1 : i + 1 < L
      · cases h1 : B (i + 1) with
        | none =>
          exact .inl ⟨by rw [fldec_second hi1 h0 htwo, h1]; rfl, by simp [flBytes, hi, h0, hflag, hi1, h1]⟩
        | some b1 =>
          refine .inr ⟨[b0, b1], by simp [flBytes, hi, h0, hflag, hi1, h1], .inr ⟨_, _, .fl2b b0 b1,
            fldec_twoBytes hi1 h0 htwo h1, ?_, fun s => rfl⟩⟩
          simp [decode, decodeElement, decodeFl, hne, hflag]
      · refine .inr ⟨[b0], by simp [flBytes, hi, h0, hi1], .inl ⟨fldec_cut hlt h0 htwo (Nat.le_of_not_lt hi1), ?_⟩⟩
        simp [decode, decodeElement, decodeFl, hne, hflag]
    · have hone : b0.toNat ≤ 251 := by omega
      have hflag : flIsTwo b0 = false := decide_eq_false htwo
      refine .inr ⟨[b0], by simp [flBytes, hi, h0, hflag], .inr ⟨b0.toNat, 1, if b0 = 0#8 then .flZero else .fl1b b0,
        fldec_oneByte hlt h0 hone, ?_, fun s => ?_⟩⟩
      · by_cases hz : b0 = 0#8 <;> simp [decode, decodeElement, decodeFl, hz, hflag]
      · by_cases hz : b0 = 0#8
        · subst hz; rfl
        · rw [if_neg hz]; rfl

/-! ## The engine step in each BUSY state (42_packet_fsm R181) -/

/-- The TOC step: the byte, its fields and the LUT row are held, and its code selects the next state (R160, R162). -/
def State.splitToc (s : State) (b : Byte) : State :=
  { s with w := { s.w with
    toc := b, fc := 0#8, off := 1#24, fields := tocSplit b, lut := cfgLut (tocConfig b), state := stateOfCode (tocCode b) } }

theorem engineStep_sToc_cases {s : State} (hst : s.w.state = .sToc) :
    (s.len = 0 ∧ engineStep s = .next (raiseError .insufficientData s)) ∨
      (0 < s.len ∧ s.B 0 = none ∧ engineStep s = .next (raiseError .busError s)) ∨
      (∃ b, 0 < s.len ∧ s.B 0 = some b ∧ engineStep s = .next (s.splitToc b)) := by
  have hf := fetch_sToc hst
  obtain ⟨hi, h⟩ | ⟨hi, hb, h⟩ | ⟨b, hi, hb, h⟩ := fetchByte_cases s 0 fetchedToc
  · exact .inl ⟨Nat.le_zero.mp hi, engineStep_of_error (hf.trans h)⟩
  · exact .inr (.inl ⟨hi, hb, engineStep_of_error (hf.trans h)⟩)
  · refine .inr (.inr ⟨b, hi, hb, ?_⟩)
    have hrun : fetch s = .runBoth (.tocSplit (tocConfig b) (tocStereo b) (tocCode b)) (.cfgLut (tocConfig b)) := hf.trans h
    rw [engineStep, hrun]
    simp only [exec_tocSplit_fields, exec_cfgLut, andThen, State.splitToc]

/-- Inside a shape the engine reads the latched window. -/
theorem engineStep_window {s : State} (hst : s.w.state = .sSd ∨ s.w.state = .sC2a ∨ s.w.state = .sC2b ∨
    s.w.state = .sVlast ∨ s.w.state = .sCbr ∨ s.w.state = .sCfin) :
    engineStep s = exec (decodeWindow s.w.toc s.w.fc) s := by
  refine engineStep_of_run ?_
  unfold fetch
  obtain h | h | h | h | h | h := hst <;> rw [h] <;> rfl

theorem engineStep_sFc_cases {s : State} (hst : s.w.state = .sFc) (hcode : tocCode s.w.toc = 3#2) :
    (s.len < 2 ∧ engineStep s = .next (raiseError .insufficientData s)) ∨
      (1 < s.len ∧ s.B 1 = none ∧ engineStep s = .next (raiseError .busError s)) ∨
      (∃ fc, 1 < s.len ∧ s.B 1 = some fc ∧
        (¬ LegalCount fc ∧ engineStep s = .next (c3Illegal fc s) ∨
          LegalCount fc ∧ engineStep s = .next (c3Header fc s))) := by
  have hf := fetch_sFc hst
  obtain ⟨hi, h⟩ | ⟨hi, hb, h⟩ | ⟨fc, hi, hb, h⟩ := fetchByte_cases s 1 fun fc =>
    fetched (decode (.element .shape [s.w.toc, fc]))
  · exact .inl ⟨Nat.lt_succ_of_le hi, engineStep_of_error (hf.trans h)⟩
  · exact .inr (.inl ⟨hi, hb, engineStep_of_error (hf.trans h)⟩)
  · have hrun : engineStep s = exec (decodeCode3 s.w.toc fc) s :=
      engineStep_of_run (by rw [hf, h, decode_shape_code3 hcode, fetched])
    refine .inr (.inr ⟨fc, hi, hb, ?_⟩)
    by_cases hm : LegalCount fc
    · exact .inr ⟨hm, hrun.trans (exec_decodeCode3_header _ hm hst)⟩
    · exact .inl ⟨hm, hrun.trans (exec_decodeCode3_illegal _ hm s)⟩

theorem engineStep_sPad_cases {s : State} (hst : s.w.state = .sPad) :
    (s.len ≤ 2 + s.w.np.toNat ∧ engineStep s = .next (raiseError .insufficientData s)) ∨
      (2 + s.w.np.toNat < s.len ∧ s.B (2 + s.w.np.toNat) = none ∧ engineStep s = .next (raiseError .busError s)) ∨
      (∃ b, 2 + s.w.np.toNat < s.len ∧ s.B (2 + s.w.np.toNat) = some b ∧
        (b = 255#8 ∧ engineStep s = exec .padCont s ∨ b ≠ 255#8 ∧ engineStep s = exec (.padTerm b) s)) := by
  have hf : fetch s = fetchByte s (2 + s.w.np.toNat) fun b => .run (if b = 255#8 then .padCont else .padTerm b) :=
    fetch_sPad hst
  obtain ⟨hi, h⟩ | ⟨hi, hb, h⟩ | ⟨b, hi, hb, h⟩ := fetchByte_cases s (2 + s.w.np.toNat) fun b =>
    .run (if b = 255#8 then .padCont else .padTerm b)
  · exact .inl ⟨hi, engineStep_of_error (hf.trans h)⟩
  · exact .inr (.inl ⟨hi, hb, engineStep_of_error (hf.trans h)⟩)
  · have hrun := engineStep_of_run (hf.trans h)
    refine .inr (.inr ⟨b, hi, hb, ?_⟩)
    by_cases h255 : b = 255#8
    · exact .inl ⟨h255, by rw [hrun, if_pos h255]⟩
    · exact .inr ⟨h255, by rw [hrun, if_neg h255]⟩

theorem engineStep_sVlen_cases {s : State} (hst : s.w.state = .sVlen) :
    (fldec s.len s.B s.off = .insufficient ∧ engineStep s = .next (raiseError .insufficientData s)) ∨
      (fldec s.len s.B s.off = .busError ∧ engineStep s = .next (raiseError .busError s)) ∨
      (∃ size n, fldec s.len s.B s.off = .ok size n ∧ engineStep s = .next (flReturn size n s)) := by
  obtain ⟨hd, hb⟩ | ⟨bytes, hb, ⟨hd, hr⟩ | ⟨size, n, j, hd, hj, hx⟩⟩ := flBytes_cases s.len s.B s.off
  · exact .inr (.inl ⟨hd, engineStep_of_error (fetch_sVlen_none hst hb)⟩)
  · exact .inl ⟨hd, engineStep_of_error (by rw [fetch_sVlen_some hst hb, hr, fetched])⟩
  · exact .inr (.inr ⟨size, n, hd, by rw [engineStep_of_run (i := j) (by rw [fetch_sVlen_some hst hb, hj, fetched]), hx]⟩)

/-! ## The obligations -/

/-- Settles O36: each fetch finds the decoded row, and at the CSR port the access is taken off the list. -/
theorem stepRunsDecodedInstruction : Obligations.StepRunsDecodedInstruction := by
  intro s i j rest
  refine ⟨?_, ?_, ?_, ?_, ?_, ?_⟩
  · intro b t hhost hst hlen hb hi hj ht
    have hf : fetch s = .runBoth i j := by
      rw [fetch_sToc hst, fetchByte_of_lt hlen hb]
      simp only [fetchedToc, hi, hj]
    simp only [step_engine s hhost, engineStep, hf, ht, andThen]
  · intro hhost hst hi
    rw [step_engine s hhost, engineStep_window hst, hi]
  · intro fc hhost hst hlen hb hi
    rw [step_engine s hhost, engineStep_of_run (i := i) (by rw [fetch_sFc hst, fetchByte_of_lt hlen hb, hi, fetched])]
  · intro b hhost hst hlen hb hi
    rw [step_engine s hhost, engineStep_of_run (i := i) (by rw [fetch_sPad hst, fetchByte_of_lt hlen hb, hi, fetched])]
  · intro bytes hhost hst hb hi
    rw [step_engine s hhost, engineStep_of_run (i := i) (by rw [fetch_sVlen_some hst hb, hi, fetched])]
  · intro a ops hhost hi
    rw [step_host s _ _ hhost, hostStep, csrPort, hi]

end Sys2Proof.Machine

namespace Sys2Proof.Machine

/-! ## Where each operation leaves the engine -/

@[simp] theorem finish_state (x : Except ErrKind Result) (s : State) : (finish x s).w.state = .sDone := by
  obtain ⟨e, -, h⟩ | ⟨r, -, h⟩ := finish_cases x s <;> rw [h] <;> rfl

@[simp] theorem finishPlain_state (x : Except ErrKind Result) (s : State) : (finishPlain x s).w.state = .sDone := by
  obtain ⟨e, -, h⟩ | ⟨r, -, h⟩ := finishPlain_cases x s <;> rw [h] <;> rfl

@[simp] theorem vbrLast_state (s : State) : (vbrLast s).w.state = .sDone := by
  obtain ⟨-, h⟩ | ⟨-, -, h⟩ := vbrLast_cases s <;> rw [h] <;> rfl

@[simp] theorem cbrFinish_state (s : State) : (cbrFinish s).w.state = .sDone := finish_state _ s

/-! ## The engine step inside a shape, by its code (42_packet_fsm R164–R171) -/

/-- The meaning of PKT_C0 (R164). -/
def packetC0 (s : State) : State :=
  finishPlain (c0Rule s.len s.B) (if s.len = 1 then s else s.latchVerdict (fldec s.len s.B 1))

/-- The meaning of PKT_C1 (R165). -/
def packetC1 (s : State) : State :=
  finishPlain (c1Decide s.len (fldec s.len s.B 1)) (s.latchVerdict (fldec s.len s.B 1))

section
variable {s : State}

theorem engineStep_code0 (hst : s.w.state = .sSd) (hcode : tocCode s.w.toc = 0#2) :
    engineStep s = .next (packetC0 s) := by
  rw [engineStep_window (.inl hst), decodeWindow_code0 hcode]; rfl

theorem engineStep_code1 (hst : s.w.state = .sSd) (hcode : tocCode s.w.toc = 1#2) :
    engineStep s = .next (packetC1 s) := by
  rw [engineStep_window (.inl hst), decodeWindow_code1 hcode]; rfl

theorem engineStep_sC2a (hst : s.w.state = .sC2a) (hcode : tocCode s.w.toc = 2#2) :
    engineStep s = .next (c2First s) := by
  rw [engineStep_window (by simp [hst]), decodeWindow_code2 hcode, exec, execPktC2, if_neg (by simp [hst])]

theorem engineStep_sC2b (hst : s.w.state = .sC2b) (hcode : tocCode s.w.toc = 2#2) :
    engineStep s = .next (c2Second s) := by
  rw [engineStep_window (by simp [hst]), decodeWindow_code2 hcode, exec, execPktC2, if_pos hst]

/-! ### Inside a code-3 packet -/

theorem Code3Held.legalCount (h : Code3Held s) : LegalCount s.w.fc := ⟨h.mPos, h.mMax⟩

theorem engineStep_sVlast (hst : s.w.state = .sVlast) (h : Code3Held s) (hv : s.v = true) :
    engineStep s = .next (vbrLast s) := by
  rw [engineStep_window (by simp [hst]), decodeWindow_code3 h.code, decodeCode3_vbr _ h.legalCount hv, exec, execPktC3Vbr,
    if_pos hst]

theorem engineStep_sCbr (hst : s.w.state = .sCbr) (h : Code3Held s) (hv : s.v = false) :
    engineStep s = .next (cbrDispatch s) := by
  rw [engineStep_window (by simp [hst]), decodeWindow_code3 h.code, decodeCode3_cbr _ h.legalCount hv, exec, execPktC3Cbr,
    if_pos hst]

theorem engineStep_sCfin (hst : s.w.state = .sCfin) (h : Code3Held s) (hv : s.v = false) :
    engineStep s = .next (cbrFinish s) := by
  rw [engineStep_window (by simp [hst]), decodeWindow_code3 h.code, decodeCode3_cbr _ h.legalCount hv, exec, execPktC3Cbr,
    if_neg (by simp [hst]), if_pos hst]

end

/-! ## Numbers that fit their registers -/

/-- A byte other than 255 contributes at most 254 (R143). -/
theorem byte_le_254 {b : Byte} (h : b ≠ 255#8) : b.toNat ≤ 254 := by
  have hne : b.toNat ≠ 255 := fun hz => h (BitVec.eq_of_toNat_eq hz)
  omega

theorem State.len_lt (s : State) : s.len < 2 ^ 24 := s.w.len.isLt

/-- The buffer length as a word is the length. -/
@[simp] theorem toNat_len_word (s : State) : (s.w.len.setWidth 32).toNat = s.len := by
  have := s.w.len.isLt
  rw [BitVec.toNat_setWidth, State.len]
  omega

/-- FLDEC's size fits `FS_W = 11` bits (41_vlc R142). -/
theorem fldec_ok_bound {L i size n : Nat} {B : Nat → Option Byte} (h : fldec L B i = .ok size n) :
    size ≤ 1275 ∧ (n = 1 ∨ n = 2) ∧ i + n ≤ L := by
  obtain ⟨hi, b0, -, hone | ⟨b1, -, htwo⟩⟩ := fldec_ok_cases h <;> omega

/-- The range of a code-3 packet fits 32 bits (43_boundary R229). -/
theorem Code3Held.rangeMax_lt {s : State} (h : Code3Held s) : rangeMax s.off s.pad s.m < 2 ^ 32 := by
  obtain ⟨-, -, -, hm, hoff, hlen, hpad, -⟩ := h
  have := s.len_lt
  unfold rangeMax Config.bndMaxFrame
  omega

theorem rangeMin_le_rangeMax (off pad m : Nat) : rangeMin off pad m ≤ rangeMax off pad m := by
  unfold rangeMin rangeMax Config.bndMinFrame Config.bndMaxFrame
  omega

/-! ## `EngineInv` by the engine state -/

theorem engineInv_of_done {t : State} (h : t.w.state = .sDone) : EngineInv t := by
  rw [EngineInv, h]; trivial

/-- The registers that hold the header, the cursor, the padding and the length. -/
def Work.header (w : Work) : Byte × TocFields × LutRow × Byte × BitVec 24 × Word × BitVec 24 :=
  (w.toc, w.fields, w.lut, w.fc, w.off, w.pad, w.len)

/-- `Code3Held` is about these registers alone. -/
theorem Code3Held.congr {s t : State} (h : Code3Held s) (ht : t.w.header = s.w.header) : Code3Held t := by
  simp only [Work.header, Prod.mk.injEq] at ht
  obtain ⟨htoc, hfields, hlut, hfc, hoff, hpad, hlen⟩ := ht
  obtain ⟨hheader, hcode, hmPos, hmMax, hoffMin, hoffMax, hpadMax, hpadZero⟩ := h
  simp only [HeaderHeld, State.m, State.off, State.len, State.pad, State.pf, ← htoc, ← hfields, ← hlut, ← hfc, ← hoff,
    ← hpad, ← hlen] at *
  exact ⟨hheader, hcode, hmPos, hmMax, hoffMin, hoffMax, hpadMax, hpadZero⟩

/-- `EngineInv` is about the working registers alone. -/
theorem EngineInv.congr {s t : State} (h : EngineInv s) (hw : t.w = s.w) : EngineInv t := by
  have held : Code3Held s → Code3Held t := fun h => h.congr (by rw [hw])
  unfold EngineInv at h ⊢
  rw [hw]
  simp only [HeaderHeld, SizesHeld, firstSizes, State.len, State.off, State.pf, State.v, State.m, State.pad, State.sum, hw]
    at h ⊢
  cases hst : s.w.state with
  | sPad | sVlen | sVlast | sCbr | sWaitBnd | sCfin => rw [hst] at h; exact ⟨held h.1, h.2⟩
  | _ => rw [hst] at h; exact h

section
variable {s : State} (h : EngineInv s)
include h

theorem EngineInv.at_sSd (hst : s.w.state = .sSd) :
    HeaderHeld s ∧ (tocCode s.w.toc = 0#2 ∨ tocCode s.w.toc = 1#2) ∧ s.w.fc = 0#8 ∧ 1 ≤ s.len := by
  rw [EngineInv, hst] at h; exact h

theorem EngineInv.at_sC2a (hst : s.w.state = .sC2a) :
    HeaderHeld s ∧ tocCode s.w.toc = 2#2 ∧ s.w.fc = 0#8 ∧ 1 ≤ s.len := by
  rw [EngineInv, hst] at h; exact h

theorem EngineInv.at_sC2b (hst : s.w.state = .sC2b) :
    HeaderHeld s ∧ tocCode s.w.toc = 2#2 ∧ s.w.fc = 0#8 ∧ (s.w.n1 = 1#2 ∨ s.w.n1 = 2#2) ∧
      1 + s.w.n1.toNat ≤ s.len ∧ s.w.s1.toNat ≤ Config.frameMax := by
  rw [EngineInv, hst] at h; exact h

theorem EngineInv.at_sFc (hst : s.w.state = .sFc) : HeaderHeld s ∧ tocCode s.w.toc = 3#2 ∧ 1 ≤ s.len := by
  rw [EngineInv, hst] at h; exact h

theorem EngineInv.at_sPad (hst : s.w.state = .sPad) : Code3Held s ∧ s.pf = true ∧ s.off = 2 + s.w.np.toNat := by
  rw [EngineInv, hst] at h; exact h

theorem EngineInv.at_sVlen (hst : s.w.state = .sVlen) :
    Code3Held s ∧ s.v = true ∧ s.w.k.toNat + 2 ≤ s.m ∧ SizesHeld s s.w.k.toNat := by
  rw [EngineInv, hst] at h; exact h

theorem EngineInv.at_sVlast (hst : s.w.state = .sVlast) : Code3Held s ∧ s.v = true ∧ SizesHeld s (s.m - 1) := by
  rw [EngineInv, hst] at h; exact h

theorem EngineInv.at_sCbr (hst : s.w.state = .sCbr) : Code3Held s ∧ s.v = false := by
  rw [EngineInv, hst] at h; exact h

theorem EngineInv.at_sWaitBnd (hst : s.w.state = .sWaitBnd) :
    Code3Held s ∧ s.v = false ∧ s.w.lx = false ∧ rangeMax s.off s.pad s.m < s.len := by
  rw [EngineInv, hst] at h; exact h

theorem EngineInv.at_sCfin (hst : s.w.state = .sCfin) : Code3Held s ∧ s.v = false ∧ s.w.t ≠ 0#32 := by
  rw [EngineInv, hst] at h; exact h

end

/-! ## The engine step keeps `EngineInv`, part by part -/

theorem code_cases : ∀ c : BitVec 2, c = 0#2 ∨ c = 1#2 ∨ c = 2#2 ∨ c = 3#2 := by decide

/-- The TOC step holds the header of its byte. -/
theorem engineInv_splitToc {s : State} (b : Byte) (hlen : 1 ≤ s.len) : EngineInv (s.splitToc b) := by
  have hheld : HeaderHeld (s.splitToc b) := ⟨rfl, rfl⟩
  have hcode : ∀ c : BitVec 2, tocCode b = c → (s.splitToc b).w.state = stateOfCode c := fun c hc => by rw [← hc]; rfl
  unfold EngineInv
  obtain hc | hc | hc | hc := code_cases (tocCode b) <;> rw [hcode _ hc]
  · exact ⟨hheld, .inl hc, rfl, hlen⟩
  · exact ⟨hheld, .inr hc, rfl, hlen⟩
  · exact ⟨hheld, hc, rfl, hlen⟩
  · exact ⟨hheld, hc, hlen⟩

theorem engineInv_c2First {s : State} (hheld : HeaderHeld s) (hcode : tocCode s.w.toc = 2#2) (hfc : s.w.fc = 0#8) :
    EngineInv (c2First s) := by
  obtain ⟨-, h⟩ | ⟨-, h⟩ | ⟨size, n, hfl, h⟩ := c2First_cases s <;> rw [h]
  · exact engineInv_of_done rfl
  · exact engineInv_of_done rfl
  · obtain ⟨hsize, hn, hi⟩ := fldec_ok_bound hfl
    have hs1 : (BitVec.ofNat 11 size).toNat = size := Nat.mod_eq_of_lt (by omega)
    have hn1 : (BitVec.ofNat 2 n).toNat = n := Nat.mod_eq_of_lt (by omega)
    refine ⟨hheld, hcode, hfc, ?_, ?_, ?_⟩
    · obtain rfl | rfl := hn
      · exact .inl rfl
      · exact .inr rfl
    · exact hn1.symm ▸ hi
    · exact hs1.symm ▸ hsize

/-! ### Inside a code-3 packet -/

/-- No size is stored yet. -/
theorem sizesHeld_zero {s : State} (hsum : s.w.sum = 0#17) : SizesHeld s 0 := by
  rw [SizesHeld, State.sum, hsum]
  exact ⟨by simp [firstSizes], rfl⟩

/-- After the padding code. -/
theorem engineInv_afterPadding {s : State} (h : Code3Held s) : EngineInv (afterPadding s) := by
  obtain ⟨hv, hm, h'⟩ | ⟨hv, hm, h'⟩ | ⟨hv, h'⟩ := afterPadding_cases s <;> rw [h']
  · exact ⟨h.congr rfl, hv, hm, sizesHeld_zero rfl⟩
  · refine ⟨h.congr rfl, hv, ?_⟩
    have hm0 : s.m - 1 = 0 := by omega
    exact hm0.symm ▸ sizesHeld_zero rfl
  · exact ⟨h.congr rfl, hv⟩

/-- A legal FC byte that lies in the buffer opens a code-3 packet. -/
theorem code3Held_readFc {s : State} {fc : Byte} (hheld : HeaderHeld s) (hcode : tocCode s.w.toc = 3#2) (hlen : 1 < s.len)
    (hm : LegalCount fc) : Code3Held (readFc fc s) :=
  ⟨hheld, hcode, hm.1, hm.2, Nat.le_refl 2, hlen, Nat.zero_le _, fun _ => rfl⟩

theorem engineInv_c3Header {s : State} {fc : Byte} (hheld : HeaderHeld s) (hcode : tocCode s.w.toc = 3#2)
    (hlen : 1 < s.len) (hm : LegalCount fc) : EngineInv (c3Header fc s) := by
  have h3 := code3Held_readFc hheld hcode hlen hm
  obtain ⟨hp, h⟩ | ⟨-, h⟩ := c3Header_cases fc s <;> rw [h]
  · exact ⟨h3.congr rfl, hp, rfl⟩
  · exact engineInv_afterPadding h3

/-! ### The padding code -/

/-- One PAD byte that contributes `x` is passed (R143; 10_state R21). -/
def padByte (x : Nat) (s : State) : State :=
  { s with w := { s.w with
    pad := BitVec.ofNat 32 (s.w.pad.toNat + x), np := BitVec.ofNat 24 (s.w.np.toNat + 1)
    off := BitVec.ofNat 24 (s.off + 1) } }

section
variable {s : State} (h : Code3Held s) (hoff : s.off = 2 + s.w.np.toNat) (hi : 2 + s.w.np.toNat < s.len)

include hoff hi in
/-- Inside the buffer the byte count and the cursor do not overflow. -/
theorem padByte_np (x : Nat) : (padByte x s).w.np.toNat = s.w.np.toNat + 1 ∧ (padByte x s).off = s.off + 1 := by
  have := s.len_lt
  exact ⟨Nat.mod_eq_of_lt (by omega), Nat.mod_eq_of_lt (by omega)⟩

include h hoff hi in
/-- The padding total is bounded by the bytes of the code, so it does not overflow (41_vlc R145). -/
theorem padByte_pad {x : Nat} (hx : x ≤ 254) : (padByte x s).pad = s.pad + x := by
  have hlt := s.len_lt
  have hpad := h.padMax
  exact Nat.mod_eq_of_lt (by unfold State.pad at hpad; omega)

theorem exec_padCont_padByte : exec .padCont s = .next (padByte 254 s) := exec_padCont s

include hoff hi in
/-- The last byte moves the cursor to `2 + w.NP`, which inside a run is the next byte. -/
theorem exec_padTerm_padByte (b : Byte) : exec (.padTerm b) s = .next (afterPadding (padByte b.toNat s)) := by
  have hnext : BitVec.ofNat 24 (2 + (padAccumulate b.toNat s).w.np.toNat) = BitVec.ofNat 24 (s.off + 1) := by
    have hnp : (padAccumulate b.toNat s).w.np.toNat = s.w.np.toNat + 1 := (padByte_np hoff hi b.toNat).1
    rw [hnp, hoff, Nat.add_assoc]
  rw [exec, execPadTerm, hnext]; rfl

include h hoff hi in
theorem Code3Held.padByte (hpf : s.pf = true) {x : Nat} (hx : x ≤ 254) : Code3Held (padByte x s) := by
  have hoff' := (padByte_np hoff hi x).2
  have hpad' := padByte_pad h hoff hi hx
  obtain ⟨hheader, hcode, hmPos, hmMax, hoffMin, hoffMax, hpadMax, -⟩ := h
  have hlen' : (Machine.padByte x s).len = s.len := rfl
  refine ⟨hheader, hcode, hmPos, hmMax, by omega, by omega, by omega, fun hpf' => ?_⟩
  rw [show (Machine.padByte x s).pf = s.pf from rfl, hpf] at hpf'
  cases hpf'

include h hoff hi in
theorem engineInv_padByte (hpf : s.pf = true) (hst : s.w.state = .sPad) : EngineInv (padByte 254 s) := by
  have hst' : (padByte 254 s).w.state = .sPad := hst
  obtain ⟨hnp', hoff'⟩ := padByte_np hoff hi 254
  rw [EngineInv, hst']
  exact ⟨h.padByte hoff hi hpf (Nat.le_refl 254), hpf, by rw [hnp', hoff', hoff, Nat.add_assoc]⟩

end

/-! ### The sizes of a VBR packet -/

/-- Storing frame size `k` adds it at the end of the sizes so far. -/
theorem firstSizes_setIfInBounds {s t : State} {k : Nat} {x : BitVec 11} (hk : k < 48)
    (ht : t.w.sizes = s.w.sizes.setIfInBounds k x) : firstSizes t (k + 1) = firstSizes s k ++ [x.toNat] := by
  rw [firstSizes, ht, Vector.toList_setIfInBounds, List.take_add_one, List.take_set_of_le (Nat.le_refl k),
    List.getElem?_set_self (by simpa using hk)]
  simp [firstSizes]

theorem length_firstSizes {s : State} {k : Nat} (hk : k ≤ 48) : (firstSizes s k).length = k := by
  simp [firstSizes, hk]

/-- Sizes of at most 1275 bytes: their sum fits the 17 bits of `w.SUM` (10_state R57). -/
theorem SizesHeld.sum_le {s : State} {k : Nat} (h : SizesHeld s k) (hk : k ≤ 48) : s.sum ≤ 1275 * k := by
  have hsum := List.sum_le_card_nsmul (firstSizes s k) 1275 h.1
  rw [length_firstSizes hk] at hsum
  rw [h.2]
  simpa [Nat.mul_comm] using hsum

/-- The state after one more size (R169): the loop goes on while `w.K < M - 2`. -/
theorem flReturn_sVlen {s : State} (hst : s.w.state = .sVlen) (size n : Nat) :
    flReturn size n s = { s with w := { s.w with
      fls := BitVec.ofNat 11 size, fln := BitVec.ofNat 2 n
      sizes := s.w.sizes.setIfInBounds s.w.k.toNat (BitVec.ofNat 11 size)
      sum := BitVec.ofNat 17 (s.w.sum.toNat + size)
      off := BitVec.ofNat 24 (s.w.off.toNat + n)
      k := if s.w.k.toNat + 2 < s.m then BitVec.ofNat 6 (s.w.k.toNat + 1) else s.w.k
      state := if s.w.k.toNat + 2 < s.m then .sVlen else .sVlast } } := by
  rw [flReturn, if_pos hst]
  obtain ⟨k, st, ⟨hm, rfl, rfl⟩ | ⟨hm, rfl, rfl⟩, h⟩ := vlenStore_cases size n (s.latchFl size n) <;> rw [h]
  · have hm' : s.w.k.toNat + 2 < s.m := hm
    simp [hm', hst]
  · have hm' : ¬ s.w.k.toNat + 2 < s.m := hm
    simp [hm']

section
variable {s : State} {size n : Nat} (hst : s.w.state = .sVlen) (h : Code3Held s)
  (hk : s.w.k.toNat + 2 ≤ s.m) (hheld : SizesHeld s s.w.k.toNat) (hfl : fldec s.len s.B s.off = .ok size n)
include hst hfl

theorem flReturn_off : (flReturn size n s).off = s.off + n := by
  obtain ⟨-, -, hi⟩ := fldec_ok_bound hfl
  have hfits : s.off + n < 2 ^ 24 := hi.trans_lt s.len_lt
  rw [flReturn_sVlen hst]
  exact Nat.mod_eq_of_lt hfits

theorem code3Held_flReturn (h : Code3Held s) : Code3Held (flReturn size n s) := by
  obtain ⟨-, -, hi⟩ := fldec_ok_bound hfl
  have hoff' := flReturn_off hst hfl
  obtain ⟨hheader, hcode, hmPos, hmMax, hoffMin, hoffMax, hpadMax, hpadZero⟩ := h
  rw [flReturn_sVlen hst] at hoff' ⊢
  exact ⟨hheader, hcode, hmPos, hmMax, hoff'.symm ▸ by omega, hoff'.symm ▸ hi,
    hoff'.symm ▸ hpadMax.trans (by omega), hpadZero⟩

include h hk

theorem firstSizes_flReturn : firstSizes (flReturn size n s) (s.w.k.toNat + 1) = firstSizes s s.w.k.toNat ++ [size] := by
  obtain ⟨hsize, -, -⟩ := fldec_ok_bound hfl
  have := h.mMax
  rw [firstSizes_setIfInBounds (s := s) (by omega) (by rw [flReturn_sVlen hst]), BitVec.toNat_ofNat,
    Nat.mod_eq_of_lt (by omega)]

include hheld

theorem sizesHeld_flReturn : SizesHeld (flReturn size n s) (s.w.k.toNat + 1) := by
  obtain ⟨hsize, -, -⟩ := fldec_ok_bound hfl
  have hmMax := h.mMax
  have hsum := hheld.sum_le (by omega)
  rw [SizesHeld, firstSizes_flReturn hst h hk hfl]
  refine ⟨fun x hx => ?_, ?_⟩
  · obtain hx | hx := List.mem_append.mp hx
    · exact hheld.1 x hx
    · exact List.mem_singleton.mp hx ▸ hsize
  · have hsum' : (flReturn size n s).sum = s.sum + size := by
      rw [flReturn_sVlen hst]
      exact Nat.mod_eq_of_lt (by unfold State.sum at hsum; omega)
    rw [hsum', hheld.2]
    simp

theorem engineInv_flReturn (hv : s.v = true) : EngineInv (flReturn size n s) := by
  have h3 := code3Held_flReturn hst hfl h
  have hsizes := sizesHeld_flReturn hst h hk hheld hfl
  rw [flReturn_sVlen hst] at h3 hsizes ⊢
  have hmMax := h.mMax
  by_cases hm : s.w.k.toNat + 2 < s.m
  · simp only [if_pos hm] at h3 hsizes ⊢
    have hk' : (BitVec.ofNat 6 (s.w.k.toNat + 1)).toNat = s.w.k.toNat + 1 := Nat.mod_eq_of_lt (by omega)
    have hnext : s.w.k.toNat + 1 + 2 ≤ s.m := by omega
    exact ⟨h3, hv, hk'.symm ▸ hnext, hk'.symm ▸ hsizes⟩
  · simp only [if_neg hm] at h3 hsizes ⊢
    have hlast : s.m - 1 = s.w.k.toNat + 1 := by omega
    exact ⟨h3, hv, hlast.symm ▸ hsizes⟩

end

/-! ### The CBR dispatch -/

theorem bmax_publishRange {s : State} (h : Code3Held s) :
    (publishRange s).w.bmax.toNat = rangeMax s.off s.pad s.m := Nat.mod_eq_of_lt h.rangeMax_lt

theorem bmin_publishRange {s : State} (h : Code3Held s) :
    (publishRange s).w.bmin.toNat = rangeMin s.off s.pad s.m :=
  Nat.mod_eq_of_lt ((rangeMin_le_rangeMax _ _ _).trans_lt h.rangeMax_lt)

theorem engineInv_cbrDispatch {s : State} (h : Code3Held s) (hv : s.v = false) : EngineInv (cbrDispatch s) := by
  obtain ⟨-, h'⟩ | ⟨-, -, h'⟩ | ⟨hx, hmax, h'⟩ | ⟨-, -, -, h'⟩ := cbrDispatch_cases s <;> rw [h']
  · refine ⟨h.congr rfl, hv, fun ht => ?_⟩
    have hzero : s.len = 0 := by rw [← toNat_len_word]; exact congrArg BitVec.toNat ht
    have := h.offMin.trans h.offMax
    omega
  · exact engineInv_of_done rfl
  · exact ⟨h.congr rfl, hv, hx, bmax_publishRange h ▸ hmax⟩
  · exact engineInv_of_done (cbrFinish_state _)

/-! ### Together -/

theorem EngineInv.engineStep {s t : State} (h : EngineInv s) (he : engineStep s = .next t) : EngineInv t := by
  have done : ∀ {u : State}, Machine.engineStep s = .next u → u.w.state = .sDone → EngineInv t := fun hu hdone => by
    rw [Host.Outcome.next.inj (he.symm.trans hu)]; exact engineInv_of_done hdone
  have goOn : ∀ {u : State}, Machine.engineStep s = .next u → EngineInv u → EngineInv t := fun hu hinv => by
    rw [Host.Outcome.next.inj (he.symm.trans hu)]; exact hinv
  cases hst : s.w.state with
  | sIdle | sWaitBnd | sDone =>
    refine goOn (u := s) ?_ h
    simp only [Machine.engineStep, fetch, hst]
  | sToc =>
    obtain ⟨-, hu⟩ | ⟨-, -, hu⟩ | ⟨b, hlen, -, hu⟩ := engineStep_sToc_cases hst
    · exact done hu rfl
    · exact done hu rfl
    · exact goOn hu (engineInv_splitToc b hlen)
  | sSd =>
    obtain ⟨-, hcode | hcode, -⟩ := h.at_sSd hst
    · exact done (engineStep_code0 hst hcode) (finishPlain_state _ _)
    · exact done (engineStep_code1 hst hcode) (finishPlain_state _ _)
  | sC2a =>
    obtain ⟨hheld, hcode, hfc, -⟩ := h.at_sC2a hst
    exact goOn (engineStep_sC2a hst hcode) (engineInv_c2First hheld hcode hfc)
  | sC2b =>
    obtain ⟨-, hcode, -⟩ := h.at_sC2b hst
    exact done (engineStep_sC2b hst hcode) (finishPlain_state _ _)
  | sFc =>
    obtain ⟨hheld, hcode, -⟩ := h.at_sFc hst
    obtain ⟨-, hu⟩ | ⟨-, -, hu⟩ | ⟨fc, hlen, -, ⟨-, hu⟩ | ⟨hm, hu⟩⟩ := engineStep_sFc_cases hst hcode
    · exact done hu rfl
    · exact done hu rfl
    · exact done hu rfl
    · exact goOn hu (engineInv_c3Header hheld hcode hlen hm)
  | sPad =>
    obtain ⟨h3, hpf, hoff⟩ := h.at_sPad hst
    obtain ⟨-, hu⟩ | ⟨-, -, hu⟩ | ⟨b, hi, -, ⟨-, hu⟩ | ⟨hb, hu⟩⟩ := engineStep_sPad_cases hst
    · exact done hu rfl
    · exact done hu rfl
    · exact goOn (hu.trans exec_padCont_padByte) (engineInv_padByte h3 hoff hi hpf hst)
    · exact goOn (hu.trans (exec_padTerm_padByte hoff hi b))
        (engineInv_afterPadding (h3.padByte hoff hi hpf (byte_le_254 hb)))
  | sVlen =>
    obtain ⟨h3, hv, hk, hsizes⟩ := h.at_sVlen hst
    obtain ⟨-, hu⟩ | ⟨-, hu⟩ | ⟨size, n, hfl, hu⟩ := engineStep_sVlen_cases hst
    · exact done hu rfl
    · exact done hu rfl
    · exact goOn hu (engineInv_flReturn hst h3 hk hsizes hfl hv)
  | sVlast =>
    obtain ⟨h3, hv, -⟩ := h.at_sVlast hst
    exact done (engineStep_sVlast hst h3 hv) (vbrLast_state s)
  | sCbr =>
    obtain ⟨h3, hv⟩ := h.at_sCbr hst
    exact goOn (engineStep_sCbr hst h3 hv) (engineInv_cbrDispatch h3 hv)
  | sCfin =>
    obtain ⟨h3, hv, -⟩ := h.at_sCfin hst
    exact done (engineStep_sCfin hst h3 hv) (cbrFinish_state s)

/-- RESUME keeps what the suspended decode holds. -/
theorem engineInv_resume {s : State} (h : Code3Held s) (hv : s.v = false) : EngineInv (resume s) := by
  obtain ⟨-, h'⟩ | ⟨ht, h'⟩ := resume_cases s <;> rw [h']
  · exact engineInv_of_done rfl
  · exact ⟨h.congr rfl, hv, ht⟩

theorem EngineInv.command {s t : State} (h : EngineInv s) (hm : CommandMove s t) : EngineInv t := by
  cases hm with
  | start | abort => trivial
  | resume le ie hwait =>
    obtain ⟨h3, hv, -⟩ := h.at_sWaitBnd hwait
    exact engineInv_resume (h3.congr rfl) hv
  | control | irqAck | bufBase | bufLen | bndTotal | read => exact h.congr rfl

theorem keptByParts_engineInv : KeptByParts EngineInv where
  firmware := fun ⟨_, hw, _⟩ h => h.congr hw
  command := fun hm h => h.command hm
  engine := fun he h => h.engineStep he
  store := fun a b {s} h => h.congr (hostStore_frame a b s).2.1
  reset := fun _ => trivial

/-! ## The obligations -/

/-- Settles O47: every part of a step keeps `EngineInv`; the engine's own, state by state. -/
theorem stepKeepsEngineInv : Obligations.StepKeepsEngineInv :=
  fun _ _ hs hstep => keptByParts_engineInv.step hstep hs

end Sys2Proof.Machine

namespace Sys2Proof.Machine

/-! ## The decisions of the packet shapes, by their cases (42_packet_fsm R164–R171) -/

/-! ### Code 0 (R164) -/

theorem c0Implicit_ok {L : Nat} (h : L - 1 ≤ 1275) : c0Implicit L = .ok (plainResult [L - 1] 1 L false) :=
  if_neg (Nat.not_lt_of_le h)

theorem c0Implicit_error {L : Nat} (h : 1275 < L - 1) : c0Implicit L = .error .invalidFrameSize := if_pos h

/-- The attempt fits. -/
theorem c0Decide_fits {L size n : Nat} (h : 1 + n + size ≤ L) :
    c0Decide L (.ok size n) = .ok (plainResult [size] (1 + n) (1 + n + size) true) := if_pos h

/-- The attempt fails (R172): there is no code, or it does not fit. -/
theorem c0Decide_implicit {L : Nat} {a : FlVerdict} (hbus : a ≠ .busError)
    (hfit : ∀ size n, a = .ok size n → L < 1 + n + size) : c0Decide L a = c0Implicit L := by
  cases a with
  | busError => exact absurd rfl hbus
  | insufficient => rfl
  | ok size n => exact if_neg (Nat.not_le_of_lt (hfit size n rfl))

/-! ### Code 1 (R165) -/

theorem c1Implicit_ok {L : Nat} (heven : (L - 1) % 2 = 0) (h : (L - 1) / 2 ≤ 1275) :
    c1Implicit L = .ok (plainResult [(L - 1) / 2, (L - 1) / 2] 1 L false) := by
  rw [c1Implicit, if_neg (by omega), if_neg (Nat.not_lt_of_le h)]

theorem c1Implicit_odd {L : Nat} (hodd : (L - 1) % 2 = 1) : c1Implicit L = .error .invalidFrameSize := if_pos hodd

theorem c1Decide_fits {L size n : Nat} (h : 1 + n + 2 * size ≤ L) :
    c1Decide L (.ok size n) = .ok (plainResult [size, size] (1 + n) (1 + n + 2 * size) true) := if_pos h

theorem c1Decide_implicit {L : Nat} {a : FlVerdict} (hbus : a ≠ .busError)
    (hfit : ∀ size n, a = .ok size n → L < 1 + n + 2 * size) : c1Decide L a = c1Implicit L := by
  cases a with
  | busError => exact absurd rfl hbus
  | insufficient => rfl
  | ok size n => exact if_neg (Nat.not_le_of_lt (hfit size n rfl))

/-! ### Code 2 (R166) -/

theorem c2Implicit_ok {L s1 n1 : Nat} (hs1 : s1 ≤ 1275) (hfit : 1 + n1 + s1 ≤ L) (hrest : L - 1 - n1 - s1 ≤ 1275) :
    c2Implicit L s1 n1 = .ok (plainResult [s1, L - 1 - n1 - s1] (1 + n1) L false) := by
  rw [c2Implicit, if_neg (Nat.not_lt_of_le hs1), if_neg (Nat.not_lt_of_le hfit), if_neg (Nat.not_lt_of_le hrest)]

theorem c2Implicit_error {L s1 n1 : Nat} (h : 1275 < s1 ∨ L < 1 + n1 + s1 ∨ 1275 < L - 1 - n1 - s1) :
    c2Implicit L s1 n1 = .error .invalidFrameSize := by
  unfold c2Implicit
  split_ifs with h1 h2 h3
  · rfl
  · rfl
  · rfl
  · exact absurd h (by simp only [not_or]; exact ⟨h1, h2, h3⟩)

theorem c2Decide_fits {L s1 n1 s2 n2 : Nat} (h : 1 + n1 + n2 + s1 + s2 ≤ L) :
    c2Decide L s1 n1 (.ok s2 n2) = .ok (plainResult [s1, s2] (1 + n1 + n2) (1 + n1 + n2 + s1 + s2) true) := if_pos h

theorem c2Decide_implicit {L s1 n1 : Nat} {a : FlVerdict} (hbus : a ≠ .busError)
    (hfit : ∀ s2 n2, a = .ok s2 n2 → L < 1 + n1 + n2 + s1 + s2) : c2Decide L s1 n1 a = c2Implicit L s1 n1 := by
  cases a with
  | busError => exact absurd rfl hbus
  | insufficient => rfl
  | ok size n => exact if_neg (Nat.not_le_of_lt (hfit size n rfl))

/-! ### CBR_FINISH (R171): the checks in order -/

section
variable {L T off pad m : Nat} {pf : Bool}

theorem cbrSplit_long (h : L < T) : cbrSplit L T off pad m pf = .error .insufficientData := if_pos h

theorem cbrSplit_header (hT : T ≤ L) (h : T < off + pad) : cbrSplit L T off pad m pf = .error .invalidFrameSize := by
  rw [cbrSplit, if_neg (Nat.not_lt_of_le hT), if_pos h]

variable (hT : T ≤ L) (hhead : off + pad ≤ T)
include hT hhead

theorem cbrSplit_uneven (h : (T - off - pad) % m ≠ 0) : cbrSplit L T off pad m pf = .error .invalidFrameSize := by
  rw [cbrSplit, if_neg (Nat.not_lt_of_le hT), if_neg (Nat.not_lt_of_le hhead), if_pos h]

theorem cbrSplit_large (heven : (T - off - pad) % m = 0) (h : 1275 < (T - off - pad) / m) :
    cbrSplit L T off pad m pf = .error .invalidFrameSize := by
  rw [cbrSplit, if_neg (Nat.not_lt_of_le hT), if_neg (Nat.not_lt_of_le hhead), if_neg (not_not.mpr heven), if_pos h]

theorem cbrSplit_ok (heven : (T - off - pad) % m = 0) (h : (T - off - pad) / m ≤ 1275) :
    cbrSplit L T off pad m pf = .ok
      { frameCount := m, frames := List.replicate m ((T - off - pad) / m), payloadOffset := off, total := T, sd := false
        isCbr := true, hasPadding := pf, paddingSize := pad } := by
  rw [cbrSplit, if_neg (Nat.not_lt_of_le hT), if_neg (Nat.not_lt_of_le hhead), if_neg (not_not.mpr heven),
    if_neg (Nat.not_lt_of_le h)]

end

/-! ## The rows of the packet shapes -/

@[simp] theorem latchVerdict_fields (s : State) (a : FlVerdict) : (s.latchVerdict a).w.fields = s.w.fields := by
  cases a <;> rfl

/-- A commit of codes 0 to 2 has no FC byte (R200). -/
theorem finishPlain_fc {x : Except ErrKind Result} {s : State} (hcode : s.w.fields.code ≠ 3#2)
    (herr : (finishPlain x s).csr.err = none) : (finishPlain x s).csr.hdr.fc = 0#8 := by
  obtain ⟨e, -, h⟩ | ⟨r, -, h⟩ := finishPlain_cases x s <;> rw [h] at herr ⊢
  · cases herr
  · exact if_neg hcode

/-- FLDEC has too few bytes only at the end of the buffer. -/
theorem le_of_fldec_insufficient {L i : Nat} {B : Nat → Option Byte} (h : fldec L B i = .insufficient) : L ≤ i + 1 := by
  by_contra hlt
  cases h0 : B i with
  | none => rw [fldec_of_unread (by omega) h0] at h; cases h
  | some b0 =>
    rw [fldec_of_first (by omega) h0] at h
    split_ifs at h
    cases h1 : B (i + 1) <;> rw [h1] at h <;> cases h

/-- Half of what follows the TOC byte is a legal size where the attempt fails (R176(b)). -/
theorem half_le_of_not_fits {L : Nat} {B : Nat → Option Byte} (hbus : fldec L B 1 ≠ .busError)
    (hfit : ∀ size n, fldec L B 1 = .ok size n → L < 1 + n + 2 * size) : (L - 1) / 2 ≤ 1275 := by
  cases h : fldec L B 1 with
  | busError => exact absurd h hbus
  | insufficient =>
    have := le_of_fldec_insufficient h
    omega
  | ok size n =>
    have hlt := hfit size n h
    obtain ⟨hsize, hn, -⟩ := fldec_ok_bound h
    omega

/-- A legal FC byte as one record. -/
theorem c3Header_eq (fc : Byte) (s : State) : c3Header fc s = { s with w := { s.w with
    fc := fc, off := 2#24, pad := 0#32, np := 0#24
    sum := if fcP fc = false ∧ fcV fc = true then 0#17 else s.w.sum
    k := if fcP fc = false ∧ fcV fc = true then 0#6 else s.w.k
    state := if fcP fc then .sPad else if fcV fc then (if 2 ≤ (fcM fc).toNat then .sVlen else .sVlast) else .sCbr } } := by
  obtain ⟨hp, h⟩ | ⟨hp, h⟩ := c3Header_cases fc s <;> rw [h]
  · simp [hp, readFc, State.goto]
  · have hv : (readFc fc s).v = fcV fc := rfl
    have hm : (readFc fc s).m = (fcM fc).toNat := rfl
    rw [afterPadding_eq, hv, hm]
    simp [hp]

/-- The length of the buffer as a word. -/
theorem len_word_eq (s : State) : s.w.len.setWidth 32 = BitVec.ofNat 32 s.len := (BitVec.ofNat_toNat 32 s.w.len).symm

/-! ## The obligations -/

/-- Settles O18: the decision of R164 in each case of the attempt. -/
theorem singleFrameRow : Obligations.SingleFrameRow := by
  intro config stereo s _
  have hexec : exec (.pktC0 config stereo) s = .next (packetC0 s) := rfl
  have hattempt : s.len ≠ 1 → packetC0 s =
      finishPlain (c0Decide s.len (fldec s.len s.B 1)) (s.latchVerdict (fldec s.len s.B 1)) := fun hne => by
    rw [packetC0, c0Rule, if_neg hne, if_neg hne]
  rw [hexec]
  refine ⟨fun hone => ?_, fun size n hne hfl hfit => ?_, fun hne hbus hfit => ⟨fun hle => ?_, fun hlt => ?_⟩,
    fun hne hbus => ?_, fun t hcode ht herr => ?_⟩
  · rw [packetC0, c0Rule, if_pos hone, if_pos hone]; rfl
  · rw [hattempt hne, hfl, c0Decide_fits hfit]; rfl
  · rw [hattempt hne, c0Decide_implicit hbus hfit, c0Implicit_ok hle]; rfl
  · rw [hattempt hne, c0Decide_implicit hbus hfit, c0Implicit_error hlt]; rfl
  · rw [hattempt hne, hbus]; rfl
  · obtain rfl := Host.Outcome.next.inj ht
    refine finishPlain_fc ?_ herr
    split_ifs <;> simp [hcode]

/-- Settles O19: the decision of R165 in each case of the attempt; where it fails, the half is a legal size. -/
theorem twoEqualFramesRow : Obligations.TwoEqualFramesRow := by
  intro config stereo s _
  have hexec : exec (.pktC1 config stereo) s = .next (packetC1 s) := rfl
  rw [hexec, packetC1]
  refine ⟨fun size n hfl hfit => ?_, fun hbus hfit => ⟨fun heven => ?_, fun hodd => ?_⟩, fun hbus => ?_,
    fun t hcode ht herr => ?_⟩
  · rw [hfl, c1Decide_fits hfit]; rfl
  · rw [c1Decide_implicit hbus hfit, c1Implicit_ok heven (half_le_of_not_fits hbus hfit)]; rfl
  · rw [c1Decide_implicit hbus hfit, c1Implicit_odd hodd]; rfl
  · rw [hbus]; rfl
  · obtain rfl := Host.Outcome.next.inj ht
    exact finishPlain_fc (by simp [hcode]) herr

/-- Settles O20: frame 1 by the cases of its code, frame 2 by the decision of R166 in each case of the attempt. -/
theorem twoSizedFramesRow : Obligations.TwoSizedFramesRow := by
  intro config stereo s
  refine ⟨fun hst => ?_, fun s1 n1 hst hs1 hn1 => ?_⟩
  · have hexec : exec (.pktC2 config stereo) s = .next (c2First s) := congrArg _ (if_neg (by simp [hst]))
    rw [hexec, c2First]
    exact ⟨fun hfl => by rw [hfl], fun hfl => by rw [hfl], fun s1 n1 hfl => by rw [hfl]; rfl⟩
  · have hexec : exec (.pktC2 config stereo) s = .next (c2Second s) := congrArg _ (if_pos hst)
    rw [hexec, c2Second, ← hs1, ← hn1]
    refine ⟨fun s2 n2 hfl hfit => ?_, fun hbus hfit => ⟨fun hle1 hle hle2 => ?_, fun h => ?_⟩, fun hbus => ?_,
      fun t hcode ht herr => ?_⟩
    · rw [hfl, c2Decide_fits hfit]; rfl
    · rw [c2Decide_implicit hbus hfit, c2Implicit_ok hle1 hle hle2]; rfl
    · rw [c2Decide_implicit hbus hfit, c2Implicit_error h]; rfl
    · rw [hbus]; rfl
    · obtain rfl := Host.Outcome.next.inj ht
      exact finishPlain_fc (by simp [hcode]) herr

/-- Settles O16: each FL row returns its size and byte count to the loop. -/
theorem frameLengthRowsInVbrLoop : Obligations.FrameLengthRowsInVbrLoop := by
  intro i size n s hst hi
  rw [← flReturn_sVlen hst]
  obtain ⟨rfl, rfl, rfl⟩ | ⟨b0, rfl, rfl, rfl⟩ | ⟨b0, b1, rfl, rfl, rfl⟩ := hi
  all_goals rfl

/-- Settles O22: at the FC byte both rows read the header. -/
theorem code3HeaderRows : Obligations.Code3HeaderRows := by
  intro config stereo p m s hst
  have hvbr : exec (.pktC3Vbr config stereo p m) s = .next (c3Header (fcByte true p m) s) :=
    congrArg _ (if_neg (by simp [hst]))
  have hcbr : exec (.pktC3Cbr config stereo p m) s = .next (c3Header (fcByte false p m) s) := by
    rw [exec, execPktC3Cbr, if_neg (by simp [hst]), if_neg (by simp [hst])]
  rw [hvbr, hcbr, c3Header_eq, c3Header_eq]
  simp only [fcP_fcByte, fcV_fcByte, fcM_fcByte]
  cases p <;> exact ⟨rfl, rfl⟩

/-- Settles O23: the two checks of the last frame, then the commit. -/
theorem vbrLastFrameRow : Obligations.VbrLastFrameRow := by
  intro config stereo p m s last hst hlast
  have hexec : exec (.pktC3Vbr config stereo p m) s = .next (vbrLast s) := congrArg _ (if_pos hst)
  replace hlast : last = lastFrame s := hlast
  rw [hexec, hlast]
  obtain ⟨herr, h⟩ | ⟨hfit, hle, h⟩ := vbrLast_cases s <;> rw [h]
  · refine ⟨fun _ => rfl, fun _ => rfl, fun hfit hle => ?_⟩
    exact absurd herr (not_or.mpr ⟨Nat.not_lt_of_le hfit, Nat.not_lt_of_le hle⟩)
  · exact ⟨fun hlt => absurd hfit (Nat.not_le_of_lt hlt), fun hlt => absurd hle (Nat.not_le_of_lt hlt), fun _ _ => rfl⟩

/-- Settles O25: CBR_FINISH's checks in order. -/
theorem cbrSplitRow : Obligations.CbrSplitRow := by
  intro config stereo p m s T U hst hT hU
  have hexec : exec (.pktC3Cbr config stereo p m) s = .next (cbrFinish s) := by
    rw [exec, execPktC3Cbr, if_neg (by simp [hst]), if_pos hst]
  rw [hexec, cbrFinish, ← hT, hU]
  refine ⟨fun h => ?_, fun hle h => ?_, fun hle hhead h => ?_, fun hle hhead heven h => ?_, fun hle hhead heven h => ?_⟩
  · rw [cbrSplit_long h]; rfl
  · rw [cbrSplit_header hle h]; rfl
  · rw [cbrSplit_uneven hle hhead h]; rfl
  · rw [cbrSplit_large hle hhead heven h]; rfl
  · rw [cbrSplit_ok hle hhead heven h]; rfl

/-- Settles O24: the dispatch by its cases; inside the range a frame never exceeds 1275 bytes. -/
theorem cbrDispatchRow : Obligations.CbrDispatchRow := by
  intro config stereo p m s r lo hi hst hlo hhi hlt hr
  subst hlo hhi
  obtain rfl : r = publishRange s := hr
  have hbmin : (publishRange s).w.bmin.toNat = s.off + 10 * s.m + s.pad :=
    Nat.mod_eq_of_lt ((rangeMin_le_rangeMax _ _ _).trans_lt hlt)
  have hbmax : (publishRange s).w.bmax.toNat = s.off + 1275 * s.m + s.pad := Nat.mod_eq_of_lt hlt
  have hlen : (publishRange s).len = s.len := rfl
  have hexec : exec (.pktC3Cbr config stereo p m) s = .next (cbrDispatch s) := by rw [exec, execPktC3Cbr, if_pos hst]
  have hverdict : s.w.lx = false → exec (.pktC3Cbr config stereo p m) s = .next (boundaryVerdict (publishRange s)) :=
    fun hx => by rw [hexec, cbrDispatch, if_neg (by simp [hx])]
  refine ⟨fun hx => ?_, fun hx hbelow => ?_, fun q U hq hU hx hge hle => ?_, fun hx habove => ?_⟩
  · rw [hexec, cbrDispatch, if_pos hx, len_word_eq]; rfl
  · rw [hverdict hx, boundaryVerdict, hbmin, hlen, if_pos hbelow]; rfl
  · obtain rfl : q = toSplit (s.w.len.setWidth 32) (publishRange s) := by rw [hq, len_word_eq]; rfl
    have hsplit : exec (.pktC3Cbr config stereo p m) s = .next (finish (cbrSplit s.len s.len s.off s.pad s.m s.pf)
        (toSplit (s.w.len.setWidth 32) (publishRange s))) := by
      rw [hverdict hx, boundaryVerdict, hbmin, hbmax, hlen, if_neg (by omega), if_neg (by omega), cbrFinish, toSplit_w]
      dsimp only
      rw [toNat_len_word]; rfl
    have hhead : s.off + s.pad ≤ s.len := by omega
    have hframe : (s.len - s.off - s.pad) / s.m ≤ 1275 := Nat.div_le_of_le_mul (by rw [Nat.mul_comm]; omega)
    rw [hsplit, hU]
    refine ⟨fun heven => ?_, fun hodd => ?_⟩
    · rw [cbrSplit_ok (Nat.le_refl _) hhead heven hframe]; rfl
    · rw [cbrSplit_uneven (Nat.le_refl _) hhead hodd]; rfl
  · rw [hverdict hx, boundaryVerdict, hbmin, hbmax, hlen, if_neg (by omega), if_pos habove]; rfl

end Sys2Proof.Machine

namespace Sys2Proof.Machine

/-! ## A result in its registers (42_packet_fsm R200) -/

/-- The numbers of a result fit the result registers (10_state R35–R39). -/
structure Result.Fits (r : Result) : Prop where
  count    : r.frameCount ≤ 48
  offset   : r.payloadOffset < 2 ^ 24
  total    : r.total < 2 ^ 24
  padding  : r.paddingSize < 2 ^ 32
  frameMax : ∀ x ∈ r.frames, x ≤ 1275

theorem getD_le {frames : List Nat} {n : Nat} (h : ∀ x ∈ frames, x ≤ n) (k : Nat) : frames.getD k 0 ≤ n := by
  rw [List.getD_eq_getElem?_getD]
  cases hk : frames[k]? with
  | none => exact Nat.zero_le n
  | some x => exact h x (List.mem_of_getElem? hk)

/-- `FRAME_SIZE[k]` after a commit. -/
theorem toNat_frameFileOf {r : Result} (h : ∀ x ∈ r.frames, x ≤ 1275) {k : Nat} (hk : k < 48) :
    (FrameFile.at (frameFileOf r) k).toNat = if k < r.frameCount then r.frames.getD k 0 else 0 := by
  have hx := getD_le h k
  rw [FrameFile.at, frameFileOf, Vector.getElem?_eq_getElem hk, Option.getD_some, Vector.getElem_ofFn]
  dsimp only
  split_ifs
  · exact Nat.mod_eq_of_lt (by omega)
  · rfl

/-- The 48 registers are the frames and then zeros. -/
theorem frameTotal_frameFileOf {r : Result} (h : ∀ x ∈ r.frames, x ≤ 1275) (hlength : r.frames.length = r.frameCount)
    (hcount : r.frameCount ≤ 48) : frameTotal (frameFileOf r) = r.frames.sum := by
  have hlist : (frameFileOf r).toList.map BitVec.toNat = r.frames ++ List.replicate (48 - r.frames.length) 0 := by
    refine List.ext_getElem (by simp; omega) fun k hk _ => ?_
    replace hk : k < 48 := by simpa using hk
    have hat := toNat_frameFileOf h hk
    rw [FrameFile.at, Vector.getElem?_eq_getElem hk, Option.getD_some] at hat
    rw [List.getElem_map, Vector.getElem_toList, hat, List.getElem_append, ← hlength]
    split_ifs with hin
    · exact (List.getElem_eq_getD 0).symm
    · simp
  rw [frameTotal, hlist, List.sum_append, List.sum_replicate, smul_zero, Nat.add_zero]

/-- The header outputs held are those of the TOC byte. -/
theorem HeaderHeld.hdr_eq {s : State} (h : HeaderHeld s) : s.w.hdr = headerOf s.w.toc s.w.fc := by
  obtain ⟨hfields, hlut⟩ := h
  rw [Work.hdr, hfields, hlut]; rfl

/-- After a commit the registers hold the result, each number exactly. -/
theorem holds_commit {r : Result} (h : r.Fits) (s : State) : Holds { hdr := s.w.hdr, res := r } (commit r s) :=
  ⟨rfl, Nat.mod_eq_of_lt (h.count.trans_lt (by decide)), rfl, rfl, rfl, Nat.mod_eq_of_lt h.offset,
    Nat.mod_eq_of_lt h.padding, Nat.mod_eq_of_lt h.total, fun _ hk => toNat_frameFileOf h.frameMax hk⟩

theorem toNat_setWidth_32 {n : Nat} (hn : n ≤ 32) (x : BitVec n) : (x.setWidth 32).toNat = x.toNat :=
  BitVec.toNat_setWidth_of_le hn

/-! ## Lawful results (42_packet_fsm R175, R206) -/

/-- What R206 asks of the result of a packet with these TOC and FC bytes in a buffer of `L` bytes: the sizes add up, and count
and flags are those of the header (R163, R175). -/
structure Result.Lawful (L : Nat) (toc fc : Byte) (r : Result) : Prop where
  length   : r.frames.length = r.frameCount
  countMax : r.frameCount ≤ 48
  frameMax : ∀ x ∈ r.frames, x ≤ 1275
  adds     : r.total ≠ 0 → r.frames.sum + r.payloadOffset + r.paddingSize = r.total
  unknown  : r.total = 0 → ∀ x ∈ r.frames, x = 0
  totalMax : r.total ≤ L
  offMax   : r.payloadOffset ≤ L
  padMax   : r.paddingSize < 2 ^ 32
  count    : r.frameCount = muxFrameCount (tocCode toc) fc
  plain    : tocCode toc ≠ 3#2 → r.isCbr = false ∧ r.hasPadding = false ∧ r.paddingSize = 0
  code3    : tocCode toc = 3#2 → r.sd = false ∧ r.isCbr = !fcV fc ∧ r.hasPadding = fcP fc

theorem Result.Lawful.fits {L : Nat} {toc fc : Byte} {r : Result} (h : r.Lawful L toc fc) (hL : L < 2 ^ 24) : r.Fits :=
  ⟨h.countMax, h.offMax.trans_lt hL, h.totalMax.trans_lt hL, h.padMax, h.frameMax⟩

/-! ### Codes 0 to 2 -/

/-- The frame-count mux looks at the FC byte of code 3 alone. -/
theorem muxFrameCount_plain {code : BitVec 2} (h : code ≠ 3#2) (fc : Byte) :
    muxFrameCount code fc = if code = 0#2 then 1 else 2 := by
  rw [muxFrameCount, if_neg h]

theorem lawful_plainResult {L off total : Nat} {toc fc : Byte} {frames : List Nat} {sd : Bool} (hcode : tocCode toc ≠ 3#2)
    (hcount : frames.length = if tocCode toc = 0#2 then 1 else 2) (hmax : ∀ x ∈ frames, x ≤ 1275)
    (hadds : frames.sum + off = total) (hpos : 1 ≤ total) (hle : total ≤ L) :
    (plainResult frames off total sd).Lawful L toc fc where
  length := rfl
  countMax := by rw [plainResult, hcount]; split_ifs <;> exact Nat.le_of_ble_eq_true rfl
  frameMax := hmax
  adds := fun _ => hadds
  unknown := fun hz => absurd hz (Nat.ne_of_gt hpos)
  totalMax := hle
  offMax := (Nat.le_add_left off _).trans (hadds.le.trans hle)
  padMax := Nat.two_pow_pos 32
  count := by rw [muxFrameCount_plain hcode, ← hcount]; rfl
  plain := fun _ => ⟨rfl, rfl, rfl⟩
  code3 := fun h => absurd h hcode

section
variable {L : Nat} {B : Nat → Option Byte} {toc fc : Byte} {r : Result}

theorem c0Implicit_lawful (hcode : tocCode toc = 0#2) (hL : 1 ≤ L) (h : c0Implicit L = .ok r) : r.Lawful L toc fc := by
  unfold c0Implicit at h
  split_ifs at h with hmax
  obtain rfl := Except.ok.inj h
  exact lawful_plainResult (by simp [hcode]) (by simp [hcode]) (by simpa using hmax) (by simp; omega) hL (Nat.le_refl L)

theorem c0Rule_lawful (hcode : tocCode toc = 0#2) (hL : 1 ≤ L) (h : c0Rule L B = .ok r) : r.Lawful L toc fc := by
  unfold c0Rule at h
  split_ifs at h with hone
  · obtain rfl := Except.ok.inj h
    exact lawful_plainResult (by simp [hcode]) (by simp [hcode]) (by simp) rfl (Nat.le_refl 1) hL
  · cases hfl : fldec L B 1 with
    | busError => rw [hfl] at h; cases h
    | insufficient => rw [hfl] at h; exact c0Implicit_lawful hcode hL h
    | ok size n =>
      obtain ⟨hsize, -⟩ := fldec_ok_bound hfl
      rw [hfl, c0Decide] at h
      split_ifs at h with hfit
      · obtain rfl := Except.ok.inj h
        exact lawful_plainResult (by simp [hcode]) (by simp [hcode]) (by simpa using hsize) (by simp; omega) (by omega) hfit
      · exact c0Implicit_lawful hcode hL h

theorem c1Implicit_lawful (hcode : tocCode toc = 1#2) (hL : 1 ≤ L) (h : c1Implicit L = .ok r) : r.Lawful L toc fc := by
  unfold c1Implicit at h
  split_ifs at h with hodd hmax
  obtain rfl := Except.ok.inj h
  exact lawful_plainResult (by simp [hcode]) (by simp [hcode]) (by simpa using hmax) (by simp; omega) hL (Nat.le_refl L)

theorem c1Decide_lawful (hcode : tocCode toc = 1#2) (hL : 1 ≤ L) (h : c1Decide L (fldec L B 1) = .ok r) :
    r.Lawful L toc fc := by
  cases hfl : fldec L B 1 with
  | busError => rw [hfl] at h; cases h
  | insufficient => rw [hfl] at h; exact c1Implicit_lawful hcode hL h
  | ok size n =>
    obtain ⟨hsize, -⟩ := fldec_ok_bound hfl
    rw [hfl, c1Decide] at h
    split_ifs at h with hfit
    · obtain rfl := Except.ok.inj h
      exact lawful_plainResult (by simp [hcode]) (by simp [hcode]) (by simpa using hsize) (by simp; omega) (by omega) hfit
    · exact c1Implicit_lawful hcode hL h

variable {s1 n1 : Nat}

theorem c2Implicit_lawful (hcode : tocCode toc = 2#2) (hL : 1 ≤ L) (h : c2Implicit L s1 n1 = .ok r) : r.Lawful L toc fc := by
  unfold c2Implicit at h
  split_ifs at h with h1 hfit h2
  obtain rfl := Except.ok.inj h
  have hs1 : s1 ≤ 1275 := Nat.le_of_not_lt h1
  have hs2 : L - 1 - n1 - s1 ≤ 1275 := Nat.le_of_not_lt h2
  exact lawful_plainResult (by simp [hcode]) (by simp [hcode]) (by simp; omega) (by simp; omega) hL
    (Nat.le_refl L)

theorem c2Decide_lawful {i : Nat} (hcode : tocCode toc = 2#2) (hL : 1 ≤ L) (hs1 : s1 ≤ 1275)
    (h : c2Decide L s1 n1 (fldec L B i) = .ok r) : r.Lawful L toc fc := by
  cases hfl : fldec L B i with
  | busError => rw [hfl] at h; cases h
  | insufficient => rw [hfl] at h; exact c2Implicit_lawful hcode hL h
  | ok size n =>
    obtain ⟨hsize, -⟩ := fldec_ok_bound hfl
    rw [hfl, c2Decide] at h
    split_ifs at h with hfit
    · obtain rfl := Except.ok.inj h
      exact lawful_plainResult (by simp [hcode]) (by simp [hcode]) (by simp; omega) (by simp; omega) (by omega) hfit
    · exact c2Implicit_lawful hcode hL h

end

/-! ### Code 3 -/

theorem lawful_code3 {s : State} (h3 : Code3Held s) {frames : List Nat} {total : Nat} {isCbr : Bool}
    (hlength : frames.length = s.m) (hmax : ∀ x ∈ frames, x ≤ 1275)
    (hadds : total ≠ 0 → frames.sum + s.off + s.pad = total) (hunknown : total = 0 → ∀ x ∈ frames, x = 0)
    (htotal : total ≤ s.len) (hcbr : isCbr = !s.v) :
    Result.Lawful s.len s.w.toc s.w.fc
      { frameCount := s.m, frames := frames, payloadOffset := s.off, total := total, sd := false, isCbr := isCbr
        hasPadding := s.pf, paddingSize := s.pad } where
  length := hlength
  countMax := h3.mMax
  frameMax := hmax
  adds := hadds
  unknown := hunknown
  totalMax := htotal
  offMax := h3.offMax
  padMax := s.w.pad.isLt
  count := by rw [muxFrameCount, h3.code]; rfl
  plain := fun h => absurd h3.code h
  code3 := fun _ => ⟨rfl, hcbr, rfl⟩

/-- A split that CBR_FINISH makes has passed its four checks (R171). -/
theorem cbrSplit_ok_cases {L T off pad m : Nat} {pf : Bool} {r : Result} (h : cbrSplit L T off pad m pf = .ok r) :
    T ≤ L ∧ off + pad ≤ T ∧ (T - off - pad) % m = 0 ∧ (T - off - pad) / m ≤ 1275 ∧
      r = { frameCount := m, frames := List.replicate m ((T - off - pad) / m), payloadOffset := off, total := T, sd := false
            isCbr := true, hasPadding := pf, paddingSize := pad } := by
  unfold cbrSplit at h
  split_ifs at h with hT hhead heven hmax
  exact ⟨Nat.le_of_not_lt hT, Nat.le_of_not_lt hhead, not_not.mp heven, Nat.le_of_not_lt hmax, (Except.ok.inj h).symm⟩

section
variable {s : State} (h3 : Code3Held s)
include h3

theorem cbrSplit_lawful (hv : s.v = false) {T : Nat} {r : Result}
    (h : cbrSplit s.len T s.off s.pad s.m s.pf = .ok r) : r.Lawful s.len s.w.toc s.w.fc := by
  obtain ⟨hT, hhead, heven, hmax, rfl⟩ := cbrSplit_ok_cases h
  have hoff := h3.offMin
  refine lawful_code3 h3 List.length_replicate (fun x hx => ?_) (fun _ => ?_) (fun hz => by omega) hT (by simp [hv])
  · exact (List.eq_of_mem_replicate hx).symm ▸ hmax
  · have hsum := Nat.div_add_mod (T - s.off - s.pad) s.m
    rw [List.sum_replicate, smul_eq_mul]
    omega

theorem unresolvedResult_lawful (hv : s.v = false) :
    (unresolvedResult s.off s.pad s.m s.pf).Lawful s.len s.w.toc s.w.fc :=
  lawful_code3 h3 List.length_replicate (fun x hx => (List.eq_of_mem_replicate hx).symm ▸ Nat.zero_le _)
    (fun hne => absurd rfl hne) (fun _ x hx => List.eq_of_mem_replicate hx) (Nat.zero_le _) (by simp [hv])

theorem vbrResult_lawful (hv : s.v = true) (hsizes : SizesHeld s (s.m - 1)) (hfit : s.off + s.pad + s.sum ≤ s.len)
    (hlast : lastFrame s ≤ 1275) : (vbrResult s).Lawful s.len s.w.toc s.w.fc := by
  obtain ⟨hmax, hsum⟩ := hsizes
  have hmPos := h3.mPos
  have hmMax := h3.mMax
  have hoff := h3.offMin
  have hfirst : explicitSizes s = firstSizes s (s.m - 1) := rfl
  rw [vbrResult, hfirst]
  refine lawful_code3 h3 ?_ (fun x hx => ?_) (fun _ => ?_) (fun hz => by omega) (Nat.le_refl _) (by simp [hv])
  · rw [List.length_append, length_firstSizes (by omega), List.length_singleton]
    omega
  · obtain hx | hx := List.mem_append.mp hx
    · exact hmax x hx
    · exact List.mem_singleton.mp hx ▸ hlast
  · rw [List.sum_append, List.sum_singleton, ← hsum, lastFrame]
    omega

end

/-! ## `ResultInv` -/

/-- After the commit of a lawful result the registers obey R206. -/
theorem resultInv_commit {s : State} {r : Result} (hheld : HeaderHeld s) (h : r.Lawful s.len s.w.toc s.w.fc) :
    ResultInv (commit r s) := by
  have hlt := s.len_lt
  have hfits := h.fits hlt
  obtain ⟨hhdr, hcount, -, -, -, hoff, hpad, htotal, hframes⟩ := holds_commit hfits s
  have hzero : BitVec.ofNat 24 r.total = 0#24 ↔ r.total = 0 := by
    rw [← BitVec.toNat_inj]; exact ⟨fun hz => htotal ▸ hz, fun hz => htotal.trans hz⟩
  have hfc : tocCode s.w.toc = 3#2 → (headerOf s.w.toc s.w.fc).fc = s.w.fc := fun hc => if_pos hc
  refine ⟨fun k hk => ?_, fun k hk hbeyond => ?_, ?_, fun hne => ?_, fun _ => ?_, fun hunres k hk => ?_, fun _ => ?_,
    fun _ hcode => ?_, fun _ hcode => ?_⟩
  · rw [hframes k hk]
    split_ifs
    · exact getD_le h.frameMax k
    · exact Nat.zero_le _
  · refine BitVec.eq_of_toNat_eq ?_
    rw [hframes k hk, if_neg (by dsimp only at hcount ⊢; omega)]; rfl
  · exact hcount.le.trans h.countMax
  · rw [commit_csr_frameSize, frameTotal_frameFileOf h.frameMax h.length h.countMax, hoff, hpad, htotal]
    exact h.adds fun hz => hne (hzero.mpr hz)
  · exact decide_eq_true_iff.trans hzero.symm
  · have hz : r.total = 0 := of_decide_eq_true hunres
    refine BitVec.eq_of_toNat_eq ?_
    rw [hframes k hk]
    have := getD_le (n := 0) (fun x hx => (h.unknown hz x hx).le) k
    split_ifs
    · exact Nat.le_zero.mp this
    · rfl
  · rw [commit_csr_hdr, hheld.hdr_eq, commit_csr_pkt]
    refine ⟨?_, hcount.trans ?_⟩
    · by_cases hc : tocCode s.w.toc = 3#2 <;> simp [headerOf, hc]
    · rw [h.count]
      by_cases hc : tocCode s.w.toc = 3#2
      · rw [hfc hc]; rfl
      · rw [muxFrameCount_plain hc]; exact (muxFrameCount_plain hc _).symm
  · obtain ⟨hcbr, hpadding, hsize⟩ := h.plain hcode
    exact ⟨hcbr, hpadding, by rw [commit_csr_paddingSize, hsize]⟩
  · have hcode' : tocCode s.w.toc = 3#2 := hcode
    rw [commit_csr_hdr, hheld.hdr_eq, hfc hcode']
    exact h.code3 hcode'

/-- `ResultInv` is about the result registers and the two flags alone; with the flags clear, about the registers. -/
theorem ResultInv.congr {s t : State} (h : ResultInv s) (hres : SameResults s t)
    (hflags : t.csr.resultValid = s.csr.resultValid ∧ t.csr.unresolved = s.csr.unresolved ∨
      t.csr.resultValid = false ∧ t.csr.unresolved = false) : ResultInv t := by
  obtain ⟨hhdr, hpkt, hoff, hpad, htotal, hframes⟩ := hres
  obtain ⟨hmax, hbeyond, hcount, hsizes, hunres, hunknown, hheader, hplain, hcode3⟩ := h
  refine ⟨hframes ▸ hmax, hframes ▸ hpkt ▸ hbeyond, hpkt ▸ hcount, hframes ▸ hoff ▸ hpad ▸ htotal ▸ hsizes, ?_, ?_,
    hpkt ▸ hhdr ▸ hheader, hpkt ▸ hhdr ▸ hpad ▸ hplain, hpkt ▸ hhdr ▸ hcode3⟩
  · obtain ⟨hv, hu⟩ | ⟨hv, -⟩ := hflags
    · rw [hv, hu, htotal]; exact hunres
    · rw [hv]; exact fun hf => nomatch hf
  · obtain ⟨-, hu⟩ | ⟨-, hu⟩ := hflags
    · rw [hu, hframes]; exact hunknown
    · rw [hu]; exact fun hf => nomatch hf

theorem SameButProgress.padByte (x : Nat) (s : State) : SameButProgress s (padByte x s) := ofWork _ rfl rfl rfl

theorem SameButProgress.sameResults {s u : State} (h : SameButProgress s u) :
    SameResults s u ∧ u.csr.resultValid = s.csr.resultValid ∧ u.csr.unresolved = s.csr.unresolved := by
  rw [SameResults, h.csr]
  exact ⟨⟨rfl, rfl, rfl, rfl, rfl, rfl⟩, rfl, rfl⟩

/-- A move of the decode that keeps the record, or commits a lawful one. -/
inductive LawfulMove (s : State) : State → Prop where
  | keep {t : State} (hres : SameResults s t) (hvalid : t.csr.resultValid = s.csr.resultValid)
      (hunres : t.csr.unresolved = s.csr.unresolved) : LawfulMove s t
  | commit {u : State} {r : Result} (hheld : HeaderHeld u) (h : r.Lawful u.len u.w.toc u.w.fc) : LawfulMove s (commit r u)

theorem LawfulMove.resultInv {s t : State} (hm : LawfulMove s t) (h : ResultInv s) : ResultInv t := by
  cases hm with
  | keep hres hvalid hunres => exact h.congr hres (.inl ⟨hvalid, hunres⟩)
  | commit hheld h => exact resultInv_commit hheld h

namespace LawfulMove

section
variable {s u : State} (h : SameButProgress s u)
include h

theorem goOn : LawfulMove s u := by
  obtain ⟨hres, hvalid, hunres⟩ := h.sameResults
  exact .keep hres hvalid hunres

theorem fail (e : ErrKind) : LawfulMove s (raiseError e u) := by
  obtain ⟨hres, hvalid, hunres⟩ := h.sameResults
  exact .keep hres hvalid hunres

theorem ask : LawfulMove s (needBoundary u) := by
  obtain ⟨hres, hvalid, hunres⟩ := h.sameResults
  exact .keep hres hvalid hunres

theorem finish {x : Except ErrKind Result} (hheld : HeaderHeld u) (hx : ∀ r, x = .ok r → r.Lawful u.len u.w.toc u.w.fc) :
    LawfulMove s (finish x u) := by
  obtain ⟨e, -, h'⟩ | ⟨r, hr, h'⟩ := finish_cases x u <;> rw [h']
  · exact fail h e
  · exact .commit hheld (hx r hr)

theorem finishPlain {x : Except ErrKind Result} (hheld : HeaderHeld u)
    (hx : ∀ r, x = .ok r → r.Lawful u.len u.w.toc u.w.fc) : LawfulMove s (finishPlain x u) := by
  obtain ⟨e, -, h'⟩ | ⟨r, hr, h'⟩ := finishPlain_cases x u <;> rw [h']
  · exact fail h e
  · exact .commit (u := u.moveTo r.payloadOffset) hheld (hx r hr)

theorem cbrFinish (h3 : Code3Held u) (hv : u.v = false) : LawfulMove s (cbrFinish u) :=
  finish h h3.header fun _ hr => cbrSplit_lawful h3 hv hr

end

theorem commitUnresolved {s u : State} (h3 : Code3Held u) (hv : u.v = false) : LawfulMove s (commitUnresolved u) :=
  .commit h3.header (unresolvedResult_lawful h3 hv)

theorem c2First (s : State) : LawfulMove s (c2First s) := by
  obtain ⟨-, h⟩ | ⟨-, h⟩ | ⟨size, n, -, h⟩ := c2First_cases s <;> rw [h]
  · exact fail (.refl s) _
  · exact fail (.refl s) _
  · exact goOn (.ofWork _ rfl rfl rfl)

theorem c3Illegal (fc : Byte) (s : State) : LawfulMove s (c3Illegal fc s) :=
  fail (.ofWork { s.w with fc := fc, off := 2#24 } rfl rfl rfl) _

theorem vbrLast {s : State} (h3 : Code3Held s) (hv : s.v = true) (hsizes : SizesHeld s (s.m - 1)) :
    LawfulMove s (vbrLast s) := by
  obtain ⟨-, h⟩ | ⟨hfit, hlast, h⟩ := vbrLast_cases s <;> rw [h]
  · exact fail (.refl s) _
  · exact .commit (u := storeLast s) h3.header (vbrResult_lawful h3 hv hsizes hfit hlast)

theorem cbrDispatch {s : State} (h3 : Code3Held s) (hv : s.v = false) : LawfulMove s (cbrDispatch s) := by
  have hrange := SameButProgress.publishRange s
  have h3' : Code3Held (publishRange s) := h3.congr rfl
  obtain ⟨-, h⟩ | ⟨-, -, h⟩ | ⟨-, -, h⟩ | ⟨-, -, -, h⟩ := cbrDispatch_cases s <;> rw [h]
  · exact goOn (.toSplit _ s)
  · exact commitUnresolved h3' hv
  · exact ask hrange
  · exact cbrFinish (hrange.trans (.toSplit _ _)) (h3'.congr rfl) hv

end LawfulMove

/-- Latching an FL result keeps the header and the length. -/
theorem latchVerdict_header (s : State) (a : FlVerdict) : (s.latchVerdict a).len = s.len ∧
    (s.latchVerdict a).w.toc = s.w.toc ∧ (s.latchVerdict a).w.fc = s.w.fc ∧
      (HeaderHeld s → HeaderHeld (s.latchVerdict a)) := by
  obtain h | ⟨size, n, -, h⟩ := latchVerdict_cases s a <;> rw [h]
  · exact ⟨rfl, rfl, rfl, id⟩
  · exact ⟨rfl, rfl, rfl, id⟩

/-- A shape of codes 0 to 2 that ends after latching an FL result. -/
theorem LawfulMove.finishLatched {s : State} {x : Except ErrKind Result} (a : FlVerdict) (hheld : HeaderHeld s)
    (hx : ∀ r, x = .ok r → r.Lawful s.len s.w.toc s.w.fc) : LawfulMove s (Machine.finishPlain x (s.latchVerdict a)) := by
  obtain ⟨hlen, htoc, hfc, hkeep⟩ := latchVerdict_header s a
  refine .finishPlain (.latchVerdict s a) (hkeep hheld) fun r hr => ?_
  rw [hlen, htoc, hfc]
  exact hx r hr

/-- In a running decode the engine commits lawful results alone. -/
theorem EngineInv.lawfulMove {s t : State} (h : EngineInv s) (he : Machine.engineStep s = .next t) : LawfulMove s t := by
  have move : ∀ {u : State}, Machine.engineStep s = .next u → LawfulMove s u → LawfulMove s t := fun hu hm => by
    rwa [Host.Outcome.next.inj (he.symm.trans hu)]
  have same := SameButProgress.refl s
  cases hst : s.w.state with
  | sIdle | sWaitBnd | sDone =>
    refine move (u := s) ?_ (.goOn same)
    simp only [Machine.engineStep, fetch, hst]
  | sToc =>
    obtain ⟨-, hu⟩ | ⟨-, -, hu⟩ | ⟨b, -, -, hu⟩ := engineStep_sToc_cases hst
    · exact move hu (.fail same _)
    · exact move hu (.fail same _)
    · exact move hu (.goOn (.ofWork _ rfl rfl rfl))
  | sSd =>
    obtain ⟨hheld, hcode | hcode, -, hlen⟩ := h.at_sSd hst
    · refine move (engineStep_code0 hst hcode) ?_
      have hx := fun r => c0Rule_lawful (B := s.B) (fc := s.w.fc) (r := r) hcode hlen
      unfold packetC0
      split_ifs
      · exact .finishPlain same hheld hx
      · exact .finishLatched _ hheld hx
    · exact move (engineStep_code1 hst hcode) (.finishLatched _ hheld fun r => c1Decide_lawful hcode hlen)
  | sC2a =>
    obtain ⟨-, hcode, -⟩ := h.at_sC2a hst
    exact move (engineStep_sC2a hst hcode) (.c2First s)
  | sC2b =>
    obtain ⟨hheld, hcode, -, -, hlen, hs1⟩ := h.at_sC2b hst
    exact move (engineStep_sC2b hst hcode)
      (.finishLatched _ hheld fun r => c2Decide_lawful hcode ((Nat.le_add_right 1 _).trans hlen) hs1)
  | sFc =>
    obtain ⟨-, hcode, -⟩ := h.at_sFc hst
    obtain ⟨-, hu⟩ | ⟨-, -, hu⟩ | ⟨fc, -, -, ⟨-, hu⟩ | ⟨-, hu⟩⟩ := engineStep_sFc_cases hst hcode
    · exact move hu (.fail same _)
    · exact move hu (.fail same _)
    · exact move hu (.c3Illegal fc s)
    · exact move hu (.goOn (.c3Header fc s))
  | sPad =>
    obtain ⟨-, -, hoff⟩ := h.at_sPad hst
    obtain ⟨-, hu⟩ | ⟨-, -, hu⟩ | ⟨b, hi, -, ⟨-, hu⟩ | ⟨-, hu⟩⟩ := engineStep_sPad_cases hst
    · exact move hu (.fail same _)
    · exact move hu (.fail same _)
    · exact move (hu.trans exec_padCont_padByte) (.goOn (.padByte 254 s))
    · exact move (hu.trans (exec_padTerm_padByte hoff hi b)) (.goOn (.trans (.padByte _ s) (.afterPadding _)))
  | sVlen =>
    obtain ⟨-, hu⟩ | ⟨-, hu⟩ | ⟨size, n, -, hu⟩ := engineStep_sVlen_cases hst
    · exact move hu (.fail same _)
    · exact move hu (.fail same _)
    · exact move hu (.goOn (.flReturn size n s))
  | sVlast =>
    obtain ⟨h3, hv, hsizes⟩ := h.at_sVlast hst
    exact move (engineStep_sVlast hst h3 hv) (.vbrLast h3 hv hsizes)
  | sCbr =>
    obtain ⟨h3, hv⟩ := h.at_sCbr hst
    exact move (engineStep_sCbr hst h3 hv) (.cbrDispatch h3 hv)
  | sCfin =>
    obtain ⟨h3, hv, -⟩ := h.at_sCfin hst
    exact move (engineStep_sCfin hst h3 hv) (.cbrFinish same h3 hv)

/-- A command commits only where RESUME answers 0, and START clears the flags. -/
theorem ResultInv.command {s t : State} (hE : EngineInv s) (h : ResultInv s) (hm : CommandMove s t) : ResultInv t := by
  cases hm with
  | start le ie _ => exact h.congr ⟨rfl, rfl, rfl, rfl, rfl, rfl⟩ (.inr ⟨rfl, rfl⟩)
  | resume le ie hwait =>
    obtain ⟨h3, hv, -⟩ := hE.at_sWaitBnd hwait
    obtain ⟨-, h'⟩ | ⟨-, h'⟩ := resume_cases (s.writeCtrl le ie) <;> rw [h']
    · have h3' : Code3Held { s.writeCtrl le ie with w := { s.w with t := 0#32 } } := h3.congr rfl
      exact resultInv_commit h3'.header (unresolvedResult_lawful h3' hv)
    · exact h.congr ⟨rfl, rfl, rfl, rfl, rfl, rfl⟩ (.inl ⟨rfl, rfl⟩)
  | control | abort | irqAck | bufBase | bufLen | bndTotal | read =>
    exact h.congr ⟨rfl, rfl, rfl, rfl, rfl, rfl⟩ (.inl ⟨rfl, rfl⟩)

/-- `ResultInv` on the CSRs alone. -/
theorem ResultInv.congr_csr {s t : State} (h : ResultInv s) (hcsr : t.csr = s.csr) : ResultInv t :=
  h.congr (by rw [SameResults, hcsr]; exact ⟨rfl, rfl, rfl, rfl, rfl, rfl⟩) (.inl (by rw [hcsr]; exact ⟨rfl, rfl⟩))

theorem resultInv_resetBlock (s : State) : ResultInv (resetBlock s) := resultInv_reset.congr_csr rfl

/-- The two invariants together: that a result is lawful rests on what the working registers hold. -/
def RecordInv (s : State) : Prop := EngineInv s ∧ ResultInv s

theorem keptByParts_recordInv : KeptByParts RecordInv where
  firmware := fun ⟨hcsr, hw, _⟩ ⟨hE, h⟩ => ⟨hE.congr hw, h.congr_csr hcsr⟩
  command := fun hm ⟨hE, h⟩ => ⟨hE.command hm, h.command hE hm⟩
  engine := fun he ⟨hE, h⟩ => ⟨hE.engineStep he, (hE.lawfulMove he).resultInv h⟩
  store := fun a b {s} ⟨hE, h⟩ => by
    obtain ⟨hcsr, hw, -⟩ := hostStore_frame a b s
    exact ⟨hE.congr hw, h.congr_csr hcsr⟩
  reset := fun _ => ⟨trivial, resultInv_resetBlock _⟩

/-! ## The obligations -/

/-- Settles O26: each register by its place in the read map, and the numbers by the registers they fit. -/
theorem commitWritesTheResult : Obligations.CommitWritesTheResult := by
  intro r s hcount hoff htotal hpad hmax
  have hholds := holds_commit ⟨hcount, hoff, htotal, hpad, hmax⟩ s
  obtain ⟨-, -, -, -, -, hoffset, hpadding, htotalSize, hframes⟩ := hholds
  refine ⟨fun config lut hheld hconfig hlut => ?_, ?_, ?_, hpadding, ?_, fun k hk => ?_, ?_, ⟨rfl, rfl, rfl, rfl⟩,
    ⟨rfl, rfl, rfl, rfl⟩, ⟨fun _ => rfl, rfl, rfl, rfl, rfl, rfl⟩, rfl⟩
  · have hread : (commit r s).csrRead 0x010 = s.w.hdr.word := rfl
    rw [hread, hheld.hdr_eq, hlut, hconfig]; rfl
  · have hfc : (BitVec.ofNat 6 r.frameCount).setWidth 32 = BitVec.ofNat 32 r.frameCount :=
      BitVec.eq_of_toNat_eq (by simp only [BitVec.toNat_setWidth, BitVec.toNat_ofNat]; omega)
    have hread : (commit r s).csrRead 0x014 = r.pkt.word := rfl
    rw [hread, Pkt.word, Result.pkt, hfc]
  · exact (toNat_setWidth_32 (by decide) _).trans hoffset
  · exact (toNat_setWidth_32 (by decide) _).trans htotalSize
  · rw [csrRead_frameSize _ hk, toNat_setWidth_32 (by decide)]
    exact hframes k hk
  · have hread : (commit r s).csrRead 0x004 = BitVec.ofNat 32 (3 + 16 + 32 * (decide (r.total = 0)).toNat + 65536) := rfl
    rw [hread]
    by_cases hz : r.total = 0 <;> simp [hz]

/-- Settles O49: every part of a step keeps both invariants, since every commit is lawful. -/
theorem stepKeepsResultInv : Obligations.StepKeepsResultInv :=
  fun _ _ hE hR hstep => (keptByParts_recordInv.step hstep ⟨hE, hR⟩).2

end Sys2Proof.Machine

namespace Sys2Proof.Machine

/-! ## A step that stays BUSY (42_packet_fsm R182) -/

theorem afterPadding_csr (s : State) : (afterPadding s).csr = s.csr := by rw [afterPadding_eq]

theorem c3Header_csr (fc : Byte) (s : State) : (c3Header fc s).csr = s.csr := by rw [c3Header_eq]

theorem flReturn_csr (size n : Nat) (s : State) : (flReturn size n s).csr = s.csr := by
  by_cases hst : s.w.state = .sVlen
  · rw [flReturn_sVlen hst]
  · rw [flReturn_of_ne hst]; rfl

/-- No row of the bitstream both goes on with the decode and changes a CSR. -/
theorem exec_csr_of_busy {i : Instr} {s t : State} (hi : i.isCommand = false) (h : exec i s = .next t)
    (hbusy : t.visible = .busy) : t.csr = s.csr := by
  have hrun : ∀ st : EngineState, st.visible ≠ .busy → t.w.state ≠ st := by
    rintro st hst rfl
    exact hst hbusy
  have hdone := hrun .sDone (by decide)
  have hwait := hrun .sWaitBnd (by decide)
  cases i <;> cases h
  case tocSplit | cfgLut | padCont => rfl
  case pktC3M0 | pktC3Mbig49 | pktC3Mbig50to51 | pktC3Mbig52to55 | pktC3Mbig56to63 => exact absurd rfl hdone
  case pktC0 | pktC1 => exact absurd (finishPlain_state _ _) hdone
  case pktC2 =>
    split_ifs at hdone ⊢
    · exact absurd (finishPlain_state _ _) hdone
    · obtain ⟨-, h⟩ | ⟨-, h⟩ | ⟨size, n, -, h⟩ := c2First_cases s <;> rw [h] at hdone ⊢
      · exact absurd rfl hdone
      · exact absurd rfl hdone
  case pktC3Vbr =>
    split_ifs at hdone ⊢
    · exact absurd (vbrLast_state s) hdone
    · exact c3Header_csr _ s
  case pktC3Cbr =>
    split_ifs at hdone hwait ⊢
    · obtain ⟨-, h⟩ | ⟨-, -, h⟩ | ⟨-, -, h⟩ | ⟨-, -, -, h⟩ := cbrDispatch_cases s <;> rw [h] at hdone hwait ⊢
      · rfl
      · exact absurd rfl hdone
      · exact absurd rfl hwait
      · exact absurd (cbrFinish_state _) hdone
    · exact absurd (cbrFinish_state s) hdone
    · exact c3Header_csr _ s
  case flZero | fl2b | fl1b => exact flReturn_csr _ _ s
  case padTerm => exact afterPadding_csr _
  all_goals cases hi

theorem engineStep_csr_of_busy {s t : State} (h : engineStep s = .next t) (hbusy : t.visible = .busy) :
    t.csr = s.csr := by
  cases hb : s.busy with
  | false =>
    rw [engineStep, fetch_of_not_busy hb] at h
    cases h; rfl
  | true =>
    have hf := elementFetch_of_busy hb
    generalize hx : fetch s = x at hf
    cases hf with
    | error e =>
      rw [engineStep_of_error hx] at h
      cases h
      have hdone : (raiseError e s).visible = .done := rfl
      rw [hdone] at hbusy
      cases hbusy
    | row hi => rw [engineStep_of_run hx] at h; exact exec_csr_of_busy hi h hbusy
    | toc b => rw [engineStep, hx] at h; cases h; rfl

/-- A CSR read looks at the CSRs and the visible state alone. -/
theorem csrRead_congr {s t : State} (hcsr : t.csr = s.csr) (hvis : t.visible = s.visible) (o : Nat) :
    t.csrRead o = s.csrRead o := by
  unfold State.csrRead State.ctrlRead State.statusRead
  rw [hcsr, hvis]

/-! ## One step of the machine by its part -/

/-- The part of a step that may touch the block or memory; a reset apart. -/
inductive StepPart (s : State) : State → Prop where
  | none : StepPart s s
  | command {t : State} (h : CommandMove s t) : StepPart s t
  | engine {t : State} (h : engineStep s = .next t) : StepPart s t
  | store (a : Word) (b : Byte) : StepPart s (hostStore a b s)

/-- One such part, with the host agent's own bookkeeping before and after it. -/
def OnePart (s t : State) : Prop := ∃ u v, OnlyFirmware s u ∧ StepPart u v ∧ OnlyFirmware v t

theorem StepPart.onePart {s t : State} (h : StepPart s t) : OnePart s t := ⟨s, t, onlyFirmware_refl s, h, onlyFirmware_refl t⟩

theorem OnlyFirmware.onePart {s t : State} (h : OnlyFirmware s t) : OnePart s t := ⟨t, t, h, .none, onlyFirmware_refl t⟩

theorem OnlyFirmware.trans {s t u : State} (h : OnlyFirmware s t) (h' : OnlyFirmware t u) : OnlyFirmware s u := by
  obtain ⟨hcsr, hw, hmem, hrdata, hplat⟩ := h
  obtain ⟨hcsr', hw', hmem', hrdata', hplat'⟩ := h'
  exact ⟨hcsr'.trans hcsr, hw'.trans hw, hmem'.trans hmem, hrdata'.trans hrdata, hplat'.trans hplat⟩

theorem csrPort_part {a : CsrAccess} {s t : State} (h : csrPort a s = .next t) : StepPart s t := by
  unfold csrPort at h
  split at h
  next i rest hd => exact .command (exec_commandMove (isCommand_of_decode_csr hd) h)
  all_goals cases h
  all_goals exact .none

theorem bufferStore_part {a : Word} {b : Byte} {s t : State} (h : bufferStore a b s = .next t) : StepPart s t := by
  unfold bufferStore at h
  split at h <;> cases h
  exact .store a b

theorem busAccess_onePart {write : Bool} {addr : Word} {width : Width} {data : Word} {s t : State}
    (h : busAccess write addr width data s = .next t) : OnePart s t := by
  unfold busAccess at h
  split at h
  · exact (csrPort_part h).onePart
  · cases h
    refine OnlyFirmware.onePart ?_
    split <;> exact onlyFirmware_refl s

/-- A read at the port, then the host agent's own bookkeeping. -/
theorem readThen_onePart {a : CsrAccess} {f : State → State} (hf : ∀ u, OnlyFirmware u (f u)) {s t : State}
    (h : andThen (csrPort a s) (fun u => .next (f u)) = .next t) : OnePart s t := by
  cases hu : csrPort a s with
  | next u => rw [hu] at h; cases h; exact ⟨s, u, onlyFirmware_refl s, csrPort_part hu, hf u⟩
  | fault r => rw [hu] at h; cases h
  | refused r => rw [hu] at h; cases h

theorem hostStep_onePart {op : HostOp} {s t : State} (hop : op ≠ .reset) (h : hostStep op s = .next t) : OnePart s t := by
  cases op with
  | csr a => exact (csrPort_part h).onePart
  | store a b => exact (bufferStore_part h).onePart
  | busWrite addr width data => exact busAccess_onePart h
  | busRead addr width => exact busAccess_onePart h
  | reset => exact absurd rfl hop
  | engine => exact StepPart.onePart (.engine h)
  | poll offset mask value => exact readThen_onePart (fun u => by split <;> exact onlyFirmware_refl u) h
  | fwLoad offset =>
    exact readThen_onePart (f := fun u => u.setFw { u.fw with words := u.fw.words ++ [u.rdata] })
      (fun u => onlyFirmware_refl u) h
  | waitIrq => cases h; exact OnlyFirmware.onePart (by split <;> exact onlyFirmware_refl s)
  | fwSearch | sweep => cases h; exact OnlyFirmware.onePart (onlyFirmware_refl s)
  | decodePacket a n => cases h; exact (fwDecodePacketOp_frame a n s).onePart
  | fwAnswer => cases h; exact (fwAnswerOp_frame s).onePart
  | fwReturn => cases h; exact (fwReturnOp_frame s).onePart
  | fwFrames => cases h; exact (fwFramesOp_frame s).onePart
  | fwRecord => cases h; exact (fwRecordOp_frame s).onePart
  | scanStream a L cur => cases h; exact (scanStreamOp_frame a L cur s).onePart
  | scan a L => cases h; exact (scanOp_frame a L s).onePart
  | scanNext a L => cases h; exact (scanNextOp_frame a L s).onePart
  | probe a L q left => cases h; exact (probeOp_frame a L q left s).onePart
  | probeNext a L q left => cases h; exact (probeNextOp_frame a L q left s).onePart
  | sweepNext a L => cases h; exact (sweepNextOp_frame a L s).onePart

/-- A step is a reset, or has one part that touches the block or memory. -/
theorem step_onePart {s t : State} (h : step s = .next t) : (∃ ops, s.host = .reset :: ops) ∨ OnePart s t := by
  cases hops : s.host with
  | nil => exact .inr (StepPart.onePart (.engine (step_engine s hops ▸ h)))
  | cons op rest =>
    by_cases hop : op = .reset
    · exact .inl ⟨rest, by rw [hop]⟩
    · rw [step_host s op rest hops] at h
      obtain ⟨u, v, hu, hpart, hv⟩ := hostStep_onePart hop h
      exact .inr ⟨u, v, OnlyFirmware.trans ⟨rfl, rfl, rfl, rfl, rfl⟩ hu, hpart, hv⟩

/-! ## When the result registers change (42_packet_fsm R200) -/

theorem sameResults_of_csr {s t : State} (h : t.csr = s.csr) : SameResults s t := by
  rw [SameResults, h]; exact ⟨rfl, rfl, rfl, rfl, rfl, rfl⟩

/-- `t` shows a commit. -/
def Committed (t : State) : Prop := t.visible = .done ∧ t.csr.resultValid = true ∧ t.csr.irqPend = true

theorem DecodeMove.results {s t : State} (h : DecodeMove s t) : SameResults s t ∨ Committed t := by
  cases h with
  | goOn hu => exact .inl hu.sameResults.1
  | ask hu => exact .inl hu.sameResults.1
  | fail hu e => exact .inl hu.sameResults.1
  | succeed hu r => exact .inr ⟨rfl, rfl, rfl⟩

theorem StepPart.results {s t : State} (h : StepPart s t) :
    SameResults s t ∨ Committed t ∧ (s.visible = .busy ∨ s.visible = .waitBnd) := by
  cases h with
  | none => exact .inl (sameResults_of_csr rfl)
  | store a b => exact .inl (sameResults_of_csr (hostStore_frame a b s).1)
  | engine h =>
    obtain ⟨-, rfl⟩ | ⟨hb, hm⟩ := engineStep_moves h
    · exact .inl (sameResults_of_csr rfl)
    · exact hm.results.imp_right fun hc => ⟨hc, .inl (visible_of_busy hb)⟩
  | command h =>
    cases h with
    | resume le ie hwait =>
      exact (DecodeMove.resume (s.writeCtrl le ie)).results.imp_right fun hc => ⟨hc, .inr (by rw [State.visible, hwait]; rfl)⟩
    | control | start | abort | irqAck | bufBase | bufLen | bndTotal | read => exact .inl ⟨rfl, rfl, rfl, rfl, rfl, rfl⟩

/-! ## The obligations -/

/-- Settles O53: a step to BUSY comes from BUSY, and no row that stays there changes a CSR. -/
theorem busyStepsAreInvisible : Obligations.BusyStepsAreInvisible := by
  intro s t h hbusy
  have hcsr := engineStep_csr_of_busy h hbusy
  have hs : s.visible = .busy := by
    obtain ⟨-, rfl⟩ | ⟨hb, -⟩ := engineStep_moves h
    · exact hbusy
    · exact visible_of_busy hb
  exact ⟨hcsr, hs, csrRead_congr hcsr (hbusy.trans hs.symm), by rw [State.irq, State.irq, hcsr]⟩

/-- Settles O52: of the parts of a step only a move of the decode can commit, and it does so from BUSY or WAIT_BND. -/
theorem onlyCommitChangesResults : Obligations.OnlyCommitChangesResults := by
  intro s t h hne
  obtain hreset | ⟨u, v, ⟨hcsr, hw, -⟩, hpart, ⟨hcsr', hw', -⟩⟩ := step_onePart h
  · exact .inr hreset
  · obtain hsame | ⟨⟨hdone, hvalid, hirq⟩, hrun⟩ := hpart.results
    · refine absurd ?_ hne
      rw [SameResults, hcsr', ← hcsr]
      exact hsame
    · rw [show u.visible = s.visible by rw [State.visible, hw, State.visible]] at hrun
      exact .inl ⟨by rw [State.visible, hw']; exact hdone, by rw [hcsr', hvalid], by rw [hcsr', hirq], hrun⟩

end Sys2Proof.Machine

namespace Sys2Proof.Machine

/-! ## DECODE from inside a packet (42_packet_fsm R160) -/

/-! ### The sizes of a VBR packet (R169) -/

/-- The rest of a VBR packet from offset `off` on: `count` more explicit sizes after those in `sizes`, and the last frame. -/
def vbrFrom (L : Nat) (B : Nat → Option Byte) (pad : Nat) (pf : Bool) (sizes : List Nat) (count off : Nat) :
    Except ErrKind Result :=
  match vbrSizes L B count off with
  | .error e => .error e
  | .ok (more, off') => vbrDecide L off' pad pf (sizes ++ more)

section
variable {L : Nat} {B : Nat → Option Byte} {pad off : Nat} {pf : Bool} {sizes : List Nat}

theorem vbrRule_eq (m : Nat) : vbrRule L B pad off m pf = vbrFrom L B pad pf [] (m - 1) off := by
  unfold vbrRule vbrFrom
  cases vbrSizes L B (m - 1) off <;> rfl

theorem vbrFrom_zero : vbrFrom L B pad pf sizes 0 off = vbrDecide L off pad pf sizes := by
  simp only [vbrFrom, vbrSizes, List.append_nil]

theorem vbrFrom_insufficient (h : fldec L B off = .insufficient) (count : Nat) :
    vbrFrom L B pad pf sizes (count + 1) off = .error .insufficientData := by
  simp only [vbrFrom, vbrSizes, h]

theorem vbrFrom_busError (h : fldec L B off = .busError) (count : Nat) :
    vbrFrom L B pad pf sizes (count + 1) off = .error .busError := by
  simp only [vbrFrom, vbrSizes, h]

theorem vbrFrom_ok {size n : Nat} (h : fldec L B off = .ok size n) (count : Nat) :
    vbrFrom L B pad pf sizes (count + 1) off = vbrFrom L B pad pf (sizes ++ [size]) count (off + n) := by
  simp only [vbrFrom, vbrSizes, h]
  cases vbrSizes L B count (off + n) <;> simp

end

/-! ### Code 3 after the padding code (R168–R170) -/

/-- The outcome of a code-3 packet by the outcome of its padding step. -/
def code3Verdict (L : Nat) (lx : Bool) (B : Nat → Option Byte) (h : Hdr) (fc : Byte) : Except ErrKind (Nat × Nat) → Verdict
  | .error e => .error e
  | .ok (pad, off) =>
    if fcV fc then verdictOf h (vbrRule L B pad off (fcM fc).toNat (fcP fc))
    else cbrRule L lx h pad off (fcM fc).toNat (fcP fc)

/-- The boundary check that it reaches (43_boundary R220). -/
def code3Range (lx : Bool) (h : Hdr) (fc : Byte) : Except ErrKind (Nat × Nat) → Option BoundaryCtx
  | .error _ => none
  | .ok (pad, off) =>
    if lx || fcV fc then none else some { hdr := h, off := off, pad := pad, m := (fcM fc).toNat, pf := fcP fc }

/-- The outcome of the padding code at offset 2 as the outcome of the padding step (R168). -/
def padOutcome : PadVerdict → Except ErrKind (Nat × Nat)
  | .insufficient => .error .insufficientData
  | .busError => .error .busError
  | .ok total n => .ok (total, 2 + n)

theorem padRule_true (L : Nat) (B : Nat → Option Byte) : padRule L B true = padOutcome (paddecFrom B 2 (L - 2) 0 0) := by
  rw [padRule, if_pos rfl, paddec]
  cases paddecFrom B 2 (L - 2) 0 0 <;> rfl

/-- The boundary check of a code-3 packet whose TOC byte has been read. -/
def c3Range (L : Nat) (lx : Bool) (B : Nat → Option Byte) (toc : Byte) : Option BoundaryCtx :=
  if L < 2 then none
  else
    match B 1 with
    | none => none
    | some fc =>
      if (fcM fc).toNat = 0 then none
      else if Config.maxFrames < (fcM fc).toNat then none
      else code3Range lx (headerOf toc fc) fc (padRule L B (fcP fc))

section
variable {L : Nat} {lx : Bool} {B : Nat → Option Byte} {toc : Byte}

theorem c3_short (h : L < 2) : c3Rule L lx B toc = .error .insufficientData ∧ c3Range L lx B toc = none :=
  ⟨if_pos h, if_pos h⟩

theorem c3_unread (hL : 1 < L) (h : B 1 = none) : c3Rule L lx B toc = .error .busError ∧ c3Range L lx B toc = none := by
  simp only [c3Rule, c3Range, if_neg (Nat.not_lt_of_le hL), h, and_self]

theorem c3_illegal {fc : Byte} (hL : 1 < L) (h : B 1 = some fc) (hm : ¬ LegalCount fc) :
    c3Rule L lx B toc = .error .invalidHeader ∧ c3Range L lx B toc = none := by
  simp only [c3Rule, c3Range, if_neg (Nat.not_lt_of_le hL), h]
  by_cases h0 : (fcM fc).toNat = 0
  · simp only [if_pos h0, and_self]
  · have h48 : 48 < (fcM fc).toNat := by unfold LegalCount at hm; omega
    simp only [if_neg h0, if_pos h48, and_self]

theorem c3_legal {fc : Byte} (hL : 1 < L) (h : B 1 = some fc) (hm : LegalCount fc) :
    c3Rule L lx B toc = code3Verdict L lx B (headerOf toc fc) fc (padRule L B (fcP fc)) ∧
      c3Range L lx B toc = code3Range lx (headerOf toc fc) fc (padRule L B (fcP fc)) := by
  simp only [c3Rule, c3Range, if_neg (Nat.not_lt_of_le hL), h, if_neg (Nat.ne_of_gt hm.1), if_neg (Nat.not_lt_of_le hm.2),
    and_true]
  cases padRule L B (fcP fc) <;> rfl

/-- The boundary check of a whole packet is the one of its code-3 part. -/
theorem rangeReached_eq (h : B 0 = some toc) :
    rangeReached L lx B = if tocCode toc = 3#2 then c3Range L lx B toc else none := by
  by_cases hL : L < 2
  · simp [rangeReached, hL, c3_short hL]
  have hL1 : 1 < L := by omega
  cases hb : B 1 with
  | none => simp [rangeReached, h, hb, c3_unread hL1 hb]
  | some fc =>
    by_cases hm : LegalCount fc
    · obtain ⟨hm1, hm48⟩ := hm
      rw [(c3_legal hL1 hb ⟨hm1, hm48⟩).2]
      cases lx <;> cases hv : fcV fc <;> cases hp : padRule L B (fcP fc) <;>
        simp [rangeReached, h, hb, hL, hm1, hm48, code3Range, hv, hp]
    · rw [(c3_illegal hL1 hb hm).2]
      have hrow : ¬ (tocCode toc = 3#2 ∧ 1 ≤ (fcM fc).toNat ∧ (fcM fc).toNat ≤ 48 ∧ fcV fc = false) :=
        fun ⟨_, hm1, hm48, _⟩ => hm ⟨hm1, hm48⟩
      simp only [rangeReached, h, hb, if_neg hrow, ite_self]

end

/-! ### DECODE by the TOC byte (R160, R163) -/

section
variable {L : Nat} {lx : Bool} {B : Nat → Option Byte} {toc : Byte}

theorem decodePacket_empty (B : Nat → Option Byte) :
    decodePacket 0 lx B = .error .insufficientData ∧ rangeReached 0 lx B = none :=
  ⟨rfl, by simp [rangeReached]⟩

theorem decodePacket_unread (hL : 0 < L) (h : B 0 = none) :
    decodePacket L lx B = .error .busError ∧ rangeReached L lx B = none := by
  refine ⟨by simp only [decodePacket, if_neg (Nat.ne_of_gt hL), h], ?_⟩
  cases h1 : B 1 <;> simp only [rangeReached, h, h1, ite_self]

theorem decodePacket_of_toc (hL : 0 < L) (h : B 0 = some toc) : decodePacket L lx B =
    if tocCode toc = 0#2 then verdictOf (headerOf toc 0#8) (c0Rule L B)
    else if tocCode toc = 1#2 then verdictOf (headerOf toc 0#8) (c1Decide L (fldec L B 1))
    else if tocCode toc = 2#2 then verdictOf (headerOf toc 0#8) (c2Rule L B)
    else c3Rule L lx B toc := by
  simp only [decodePacket, if_neg (Nat.ne_of_gt hL), h]

end

end Sys2Proof.Machine

namespace Sys2Proof.Machine

/-! ## What a move of the decode completes -/

theorem DecodeMove.descriptor {s t : State} (h : DecodeMove s t) : SameDescriptor s t := by
  cases h with
  | goOn hu => rw [SameDescriptor, hu.csr]; exact ⟨rfl, rfl, rfl, rfl⟩
  | ask hu => rw [SameDescriptor, needBoundary_csr, hu.csr]; exact ⟨rfl, rfl, rfl, rfl⟩
  | fail hu e => rw [SameDescriptor, raiseError_csr, hu.csr]; exact ⟨rfl, rfl, rfl, rfl⟩
  | succeed hu r =>
    simp only [SameDescriptor, commit_csr_lenExact, commit_csr_irqEn, commit_csr_bufBase, commit_csr_bufLen]
    rw [hu.csr]; exact ⟨rfl, rfl, rfl, rfl⟩

theorem DecodeMove.rdata {s t : State} (h : DecodeMove s t) : t.rdata = s.rdata := by
  cases h with
  | goOn hu | ask hu | fail hu _ | succeed hu _ => exact hu.rdata

theorem DecodeMove.outside {s t : State} (h : DecodeMove s t) : SameOutside s t :=
  have hsame := h.surroundings
  ⟨hsame.read, hsame.mem, h.rdata, hsame.host, hsame.fw, hsame.platform⟩

/-- The buffer is the same where base, memory and platform are. -/
theorem SameButProgress.B_eq {s u : State} (h : SameButProgress s u) : u.B = s.B := by
  funext i
  rw [State.B, State.B, h.platform, h.mem, h.base]

theorem SameButProgress.len_eq {s u : State} (h : SameButProgress s u) : u.len = s.len := by
  rw [State.len, State.len, h.len]

theorem BoundaryAfter.congr {c : Option BoundaryCtx} {s u t : State} (h : BoundaryAfter c s u) (hbnd : SameBoundary u t) :
    BoundaryAfter c s t := by
  obtain ⟨hmin, hmax, hsig, htotal⟩ := hbnd
  cases c with
  | none =>
    obtain ⟨h1, h2, h3, h4⟩ := h
    exact ⟨hmin.trans h1, hmax.trans h2, hsig.trans h3, htotal.trans h4⟩
  | some c =>
    obtain ⟨h1, h2, h3, h4⟩ := h
    exact ⟨by rw [hmin, h1], by rw [hmax, h2], hsig.trans h3, htotal.trans h4⟩

theorem finish_boundary (x : Except ErrKind Result) (s : State) : SameBoundary s (finish x s) := by
  cases x <;> exact ⟨rfl, rfl, rfl, rfl⟩

theorem finishPlain_boundary (x : Except ErrKind Result) (s : State) : SameBoundary s (finishPlain x s) := by
  cases x <;> exact ⟨rfl, rfl, rfl, rfl⟩

section
variable {s u : State} (hu : SameButProgress s u)

include hu in
theorem completes_raiseError (e : ErrKind) : Completes (.error e) s (raiseError e u) := by
  obtain ⟨hres, hvalid, hunres⟩ := hu.sameResults
  exact ⟨rfl, hres, hvalid, hunres, rfl, rfl⟩

theorem completes_commit {r : Result} (hr : r.Fits) (s u : State) :
    Completes (.done { hdr := u.w.hdr, res := r }) s (commit r u) :=
  ⟨rfl, holds_commit hr u, rfl, rfl, rfl, rfl⟩

include hu in
theorem completes_finish {x : Except ErrKind Result} (hx : ∀ r, x = .ok r → r.Fits) :
    Completes (verdictOf u.w.hdr x) s (finish x u) := by
  cases x with
  | error e => exact completes_raiseError hu e
  | ok r => exact completes_commit (hx r rfl) s u

include hu in
theorem completes_finishPlain {x : Except ErrKind Result} (hx : ∀ r, x = .ok r → r.Fits) :
    Completes (verdictOf u.w.hdr x) s (finishPlain x u) := by
  cases x with
  | error e => exact completes_raiseError hu e
  | ok r => exact completes_commit (hx r rfl) s (u.moveTo r.payloadOffset)

end

/-! ## A decode that ends -/

/-- With no host operation to come, at most `k` steps complete the decode in progress with this outcome, and leave the range
registers as its boundary check says (42_packet_fsm R207). -/
def EndsWithin (k : Nat) (v : Verdict) (c : Option BoundaryCtx) (s : State) : Prop :=
  ∃ n t, n ≤ k ∧ Sys2Proof.core.run n s = .next t ∧ Completes v s t ∧ BoundaryAfter c s t ∧ SameDescriptor s t ∧
    SameOutside s t

theorem EndsWithin.mono {k k' : Nat} {v : Verdict} {c : Option BoundaryCtx} {s : State} (h : EndsWithin k v c s)
    (hk : k ≤ k') : EndsWithin k' v c s := by
  obtain ⟨n, t, hn, h⟩ := h
  exact ⟨n, t, hn.trans hk, h⟩

theorem Completes.after {v : Verdict} {s u t : State} (h : Completes v u t) (hcsr : u.csr = s.csr) (hlen : u.w.len = s.w.len) :
    Completes v s t := by
  cases v with
  | done p => exact h
  | error e => simpa only [Completes, SameResults, hcsr] using h
  | needBoundary c => simpa only [Completes, SameResults, hcsr, hlen] using h

theorem BoundaryAfter.after {c : Option BoundaryCtx} {s u t : State} (h : BoundaryAfter c u t) (hcsr : u.csr = s.csr) :
    BoundaryAfter c s t := by
  cases c <;> simpa only [BoundaryAfter, SameBoundary, hcsr] using h

section
variable {s : State} {k : Nat} {v : Verdict} {c : Option BoundaryCtx} (hhost : s.host = [])
include hhost

/-- An engine step that only moves on puts one more step before the end. -/
theorem EndsWithin.step {u : State} (he : engineStep s = .next u) (hu : SameButProgress s u) (hcsr : u.csr = s.csr)
    (h : EndsWithin k v c u) : EndsWithin (k + 1) v c s := by
  obtain ⟨n, t, hn, hrun, hv, hc, hd, hmemRead, hmem, hrdata, hhost', hfw, hplat⟩ := h
  refine ⟨n + 1, t, Nat.succ_le_succ hn, (run_succ n s u ((step_engine s hhost).trans he)).trans hrun,
    hv.after hcsr hu.len, hc.after hcsr, ?_, ?_⟩
  · simpa only [SameDescriptor, hcsr] using hd
  · exact ⟨fun a => by rw [hmemRead, hu.mem], hmem.trans hu.mem, hrdata.trans hu.rdata, hhost'.trans hu.host,
      hfw.trans hu.fw, hplat.trans hu.platform⟩

/-- An engine step that completes the decode. -/
theorem EndsWithin.last {t : State} (he : engineStep s = .next t) (hm : DecodeMove s t) (hv : Completes v s t)
    (hc : BoundaryAfter c s t) : EndsWithin (k + 1) v c s :=
  ⟨1, t, Nat.le_add_left 1 k, (run_succ 0 s t ((step_engine s hhost).trans he)).trans rfl, hv, hc, hm.descriptor, hm.outside⟩

theorem EndsWithin.fail {e : ErrKind} {u : State} (he : engineStep s = .next (raiseError e u)) (hu : SameButProgress s u)
    (hc : BoundaryAfter c s u) : EndsWithin (k + 1) (.error e) c s :=
  .last hhost he (.fail hu e) (completes_raiseError hu e) (hc.congr ⟨rfl, rfl, rfl, rfl⟩)

theorem EndsWithin.finish {x : Except ErrKind Result} {u : State} (he : engineStep s = .next (finish x u))
    (hu : SameButProgress s u) (hc : BoundaryAfter c s u) (hhdr : u.w.hdr = s.w.hdr) (hx : ∀ r, x = .ok r → r.Fits) :
    EndsWithin (k + 1) (verdictOf s.w.hdr x) c s :=
  .last hhost he (.after hu (.finish x u)) (hhdr ▸ completes_finish hu hx) (hc.congr (finish_boundary x u))

theorem EndsWithin.finishPlain {x : Except ErrKind Result} {u : State} (he : engineStep s = .next (finishPlain x u))
    (hu : SameButProgress s u) (hc : BoundaryAfter c s u) (hhdr : u.w.hdr = s.w.hdr) (hx : ∀ r, x = .ok r → r.Fits) :
    EndsWithin (k + 1) (verdictOf s.w.hdr x) c s :=
  .last hhost he (.after hu (.finishPlain x u)) (hhdr ▸ completes_finishPlain hu hx) (hc.congr (finishPlain_boundary x u))

end

theorem boundaryAfter_none_refl (s : State) : BoundaryAfter none s s := ⟨rfl, rfl, rfl, rfl⟩

@[simp] theorem latchVerdict_csr (s : State) (a : FlVerdict) : (s.latchVerdict a).csr = s.csr := by cases a <;> rfl

@[simp] theorem latchVerdict_hdr (s : State) (a : FlVerdict) : (s.latchVerdict a).w.hdr = s.w.hdr := by cases a <;> rfl

theorem boundaryAfter_latchVerdict (s : State) (a : FlVerdict) : BoundaryAfter none s (s.latchVerdict a) := by
  rw [BoundaryAfter, SameBoundary, latchVerdict_csr]; exact ⟨rfl, rfl, rfl, rfl⟩

/-! ### Codes 0 to 2 -/

section
variable {s : State} (hE : EngineInv s) (hhost : s.host = [])
include hE hhost

theorem ends_code0 (hst : s.w.state = .sSd) (hcode : tocCode s.w.toc = 0#2) :
    EndsWithin 1 (verdictOf s.w.hdr (c0Rule s.len s.B)) none s := by
  obtain ⟨-, -, -, hlen⟩ := hE.at_sSd hst
  have he := engineStep_code0 hst hcode
  have hx : ∀ r, c0Rule s.len s.B = .ok r → r.Fits := fun r hr =>
    (c0Rule_lawful (fc := s.w.fc) hcode hlen hr).fits s.len_lt
  unfold packetC0 at he
  split_ifs at he
  · exact .finishPlain hhost he (.refl s) (boundaryAfter_none_refl s) rfl hx
  · exact .finishPlain hhost he (.latchVerdict s _) (boundaryAfter_latchVerdict s _) (latchVerdict_hdr s _) hx

theorem ends_code1 (hst : s.w.state = .sSd) (hcode : tocCode s.w.toc = 1#2) :
    EndsWithin 1 (verdictOf s.w.hdr (c1Decide s.len (fldec s.len s.B 1))) none s := by
  obtain ⟨-, -, -, hlen⟩ := hE.at_sSd hst
  exact .finishPlain hhost (engineStep_code1 hst hcode) (.latchVerdict s _) (boundaryAfter_latchVerdict s _)
    (latchVerdict_hdr s _) fun r hr => (c1Decide_lawful (fc := s.w.fc) hcode hlen hr).fits s.len_lt

theorem ends_sC2b (hst : s.w.state = .sC2b) : EndsWithin 1 (verdictOf s.w.hdr
    (c2Decide s.len s.w.s1.toNat s.w.n1.toNat (fldec s.len s.B (1 + s.w.n1.toNat)))) none s := by
  obtain ⟨-, hcode, -, -, hlen, hs1⟩ := hE.at_sC2b hst
  exact .finishPlain hhost (engineStep_sC2b hst hcode) (.latchVerdict s _) (boundaryAfter_latchVerdict s _)
    (latchVerdict_hdr s _) fun r hr =>
      (c2Decide_lawful (fc := s.w.fc) hcode ((Nat.le_add_right 1 _).trans hlen) hs1 hr).fits s.len_lt

theorem ends_sC2a (hst : s.w.state = .sC2a) : EndsWithin 2 (verdictOf s.w.hdr (c2Rule s.len s.B)) none s := by
  obtain ⟨-, hcode, -⟩ := hE.at_sC2a hst
  have he := engineStep_sC2a hst hcode
  have hE' := hE.engineStep he
  obtain ⟨hfl, h⟩ | ⟨hfl, h⟩ | ⟨size, n, hfl, h⟩ := c2First_cases s
  · rw [c2Rule, hfl]
    exact .fail hhost (h ▸ he) (.refl s) (boundaryAfter_none_refl s)
  · rw [c2Rule, hfl]
    exact .fail hhost (h ▸ he) (.refl s) (boundaryAfter_none_refl s)
  · obtain ⟨hsize, hn, -⟩ := fldec_ok_bound hfl
    have hs1 : (BitVec.ofNat 11 size).toNat = size := Nat.mod_eq_of_lt (by omega)
    have hn1 : (BitVec.ofNat 2 n).toNat = n := Nat.mod_eq_of_lt (by omega)
    rw [h] at he hE'
    have hnext := ends_sC2b hE' hhost rfl
    dsimp only at hnext
    rw [hs1, hn1] at hnext
    rw [c2Rule, hfl]
    exact .step hhost he (.ofWork _ rfl rfl rfl) rfl hnext

end

/-! ### Code 3, CBR -/

section
variable {L pad off m : Nat} {h : Hdr} {pf : Bool}

theorem cbrRule_exact : cbrRule L true h pad off m pf = verdictOf h (cbrSplit L L off pad m pf) := rfl

theorem cbrRule_below (hL : L < rangeMin off pad m) :
    cbrRule L false h pad off m pf = .done { hdr := h, res := unresolvedResult off pad m pf } := if_pos hL

theorem cbrRule_above (hL : rangeMax off pad m < L) :
    cbrRule L false h pad off m pf = .needBoundary { hdr := h, off := off, pad := pad, m := m, pf := pf } := by
  have hmin := (rangeMin_le_rangeMax off pad m).trans_lt hL
  exact (if_neg (Nat.lt_asymm hmin)).trans (if_pos hL)

theorem cbrRule_inside (hmin : rangeMin off pad m ≤ L) (hmax : L ≤ rangeMax off pad m) :
    cbrRule L false h pad off m pf = verdictOf h (cbrSplit L L off pad m pf) :=
  (if_neg (Nat.not_lt_of_le hmin)).trans (if_neg (Nat.not_lt_of_le hmax))

end

/-- The boundary check of this decode, as the registers hold it (43_boundary R230). -/
def State.boundaryCtx (s : State) : BoundaryCtx := { hdr := s.w.hdr, off := s.off, pad := s.pad, m := s.m, pf := s.pf }

theorem boundaryAfter_publishRange {s : State} (h3 : Code3Held s) :
    BoundaryAfter (some s.boundaryCtx) s (publishRange s) := by
  refine ⟨bmin_publishRange h3, bmax_publishRange h3, ?_, rfl⟩
  have hfc : s.w.hdr.fc = s.w.fc := by rw [h3.header.hdr_eq]; exact if_pos h3.code
  rw [State.boundaryCtx, hfc]; rfl

/-- CBR_FINISH(w.L). -/
theorem cbrFinish_toSplit_len (s : State) : cbrFinish (toSplit (s.w.len.setWidth 32) s) =
    finish (cbrSplit s.len s.len s.off s.pad s.m s.pf) (toSplit (s.w.len.setWidth 32) s) := by
  have ht : (toSplit (s.w.len.setWidth 32) s).w.t.toNat = s.len := toNat_len_word s
  rw [cbrFinish, ht]; rfl

section
variable {s : State} (hE : EngineInv s) (hhost : s.host = [])
include hE hhost

theorem ends_sCfin (hst : s.w.state = .sCfin) :
    EndsWithin 1 (verdictOf s.w.hdr (cbrSplit s.len s.w.t.toNat s.off s.pad s.m s.pf)) none s := by
  obtain ⟨h3, hv, -⟩ := hE.at_sCfin hst
  exact .finish hhost (engineStep_sCfin hst h3 hv) (.refl s) (boundaryAfter_none_refl s) rfl
    fun r hr => (cbrSplit_lawful h3 hv hr).fits s.len_lt

theorem ends_sCbr (hst : s.w.state = .sCbr) : EndsWithin 2 (cbrRule s.len s.w.lx s.w.hdr s.pad s.off s.m s.pf)
    (if s.w.lx then none else some s.boundaryCtx) s := by
  obtain ⟨h3, hv⟩ := hE.at_sCbr hst
  have he := engineStep_sCbr hst h3 hv
  have hE' := hE.engineStep he
  have hrange := SameButProgress.publishRange s
  have h3' : Code3Held (publishRange s) := h3.congr rfl
  have hbnd := boundaryAfter_publishRange h3
  have hmin := bmin_publishRange h3
  have hmax := bmax_publishRange h3
  obtain ⟨hx, h⟩ | ⟨hx, hbelow, h⟩ | ⟨hx, habove, h⟩ | ⟨hx, hge, hle, h⟩ := cbrDispatch_cases s <;> rw [h] at he hE' <;>
    rw [hx]
  · have ht : (toSplit (s.w.len.setWidth 32) s).w.t.toNat = s.len := toNat_len_word s
    have hnext := ends_sCfin hE' hhost rfl
    rw [ht] at hnext
    rw [cbrRule_exact]
    exact .step hhost he (.toSplit _ s) rfl hnext
  · rw [cbrRule_below (hmin ▸ hbelow)]
    have hfits := (unresolvedResult_lawful h3' hv).fits s.len_lt
    exact .last hhost he (.after hrange (.commitUnresolved _)) (completes_commit hfits s _) (hbnd.congr ⟨rfl, rfl, rfl, rfl⟩)
  · rw [cbrRule_above (hmax ▸ habove)]
    obtain ⟨hres, hvalid, hunres⟩ := hrange.sameResults
    exact .last hhost he (.ask hrange) ⟨rfl, hres, hvalid, hunres, rfl, rfl, rfl, rfl, rfl, rfl, rfl, rfl⟩
      (hbnd.congr ⟨rfl, rfl, rfl, rfl⟩)
  · rw [cbrRule_inside (hmin ▸ hge) (hmax ▸ hle)]
    exact .finish hhost (he.trans (congrArg _ (cbrFinish_toSplit_len (publishRange s)))) (hrange.trans (.toSplit _ _))
      (hbnd.congr ⟨rfl, rfl, rfl, rfl⟩) rfl fun r hr => (cbrSplit_lawful h3' hv hr).fits s.len_lt

end

/-! ### Code 3, VBR -/

section
variable {L off pad : Nat} {pf : Bool} {sizes : List Nat}

theorem vbrDecide_error (h : L < off + pad + sizes.sum ∨ 1275 < L - off - pad - sizes.sum) :
    vbrDecide L off pad pf sizes = .error .invalidFrameSize := by
  unfold vbrDecide
  obtain h | h := h
  · exact if_pos h
  · split_ifs
    · rfl
    · rfl

theorem vbrDecide_ok (hfit : off + pad + sizes.sum ≤ L) (hlast : L - off - pad - sizes.sum ≤ 1275) :
    vbrDecide L off pad pf sizes = .ok
      { frameCount := sizes.length + 1, frames := sizes ++ [L - off - pad - sizes.sum], payloadOffset := off, total := L
        sd := false, isCbr := false, hasPadding := pf, paddingSize := pad } := by
  rw [vbrDecide, if_neg (Nat.not_lt_of_le hfit), if_neg (Nat.not_lt_of_le hlast)]

end

section
variable {s : State} (hE : EngineInv s) (hhost : s.host = [])
include hE hhost

theorem ends_sVlast (hst : s.w.state = .sVlast) :
    EndsWithin 1 (verdictOf s.w.hdr (vbrDecide s.len s.off s.pad s.pf (firstSizes s (s.m - 1)))) none s := by
  obtain ⟨h3, hv, hsizes⟩ := hE.at_sVlast hst
  have he := engineStep_sVlast hst h3 hv
  have hmPos := h3.mPos
  have hmMax := h3.mMax
  have hsum := hsizes.2
  obtain ⟨herr, h⟩ | ⟨hfit, hlast, h⟩ := vbrLast_cases s <;> rw [h] at he
  · rw [vbrDecide_error (hsum ▸ herr)]
    exact .fail hhost he (.refl s) (boundaryAfter_none_refl s)
  · have hlength : (firstSizes s (s.m - 1)).length + 1 = s.m := by rw [length_firstSizes (by omega)]; omega
    have hfits := (vbrResult_lawful h3 hv hsizes hfit hlast).fits s.len_lt
    rw [vbrDecide_ok (hsum ▸ hfit) (hsum ▸ hlast), hlength, ← hsum]
    exact .last hhost he (.succeed (.storeLast s) _) (completes_commit hfits s (storeLast s)) ⟨rfl, rfl, rfl, rfl⟩

end

/-- An FL row of the loop keeps the header and the padding. -/
theorem flReturn_frame {s : State} (hst : s.w.state = .sVlen) (size n : Nat) : (flReturn size n s).w.hdr = s.w.hdr ∧
    (flReturn size n s).m = s.m ∧ (flReturn size n s).pf = s.pf ∧ (flReturn size n s).pad = s.pad := by
  rw [flReturn_sVlen hst]; exact ⟨rfl, rfl, rfl, rfl⟩

/-- One iteration of R169: a size, and then the rest. -/
theorem ends_vlenStep {s : State} (hhost : s.host = []) (hst : s.w.state = .sVlen) {k count : Nat}
    (hnext : ∀ size n, fldec s.len s.B s.off = .ok size n → EndsWithin (k + 1) (verdictOf s.w.hdr
      (vbrFrom s.len s.B s.pad s.pf (firstSizes s s.w.k.toNat ++ [size]) count (s.off + n))) none (flReturn size n s)) :
    EndsWithin (k + 2)
      (verdictOf s.w.hdr (vbrFrom s.len s.B s.pad s.pf (firstSizes s s.w.k.toNat) (count + 1) s.off)) none s := by
  obtain ⟨hfl, he⟩ | ⟨hfl, he⟩ | ⟨size, n, hfl, he⟩ := engineStep_sVlen_cases hst
  · rw [vbrFrom_insufficient hfl]
    exact .fail hhost he (.refl s) (boundaryAfter_none_refl s)
  · rw [vbrFrom_busError hfl]
    exact .fail hhost he (.refl s) (boundaryAfter_none_refl s)
  · rw [vbrFrom_ok hfl]
    exact .step hhost he (.flReturn size n s) (flReturn_csr size n s) (hnext size n hfl)

/-- The loop of R169 with `count + 1` sizes to go. -/
theorem ends_sVlen (count : Nat) : ∀ {s : State}, EngineInv s → s.host = [] → s.w.state = .sVlen →
    s.w.k.toNat + 2 + count = s.m → EndsWithin (count + 2)
      (verdictOf s.w.hdr (vbrFrom s.len s.B s.pad s.pf (firstSizes s s.w.k.toNat) (count + 1) s.off)) none s := by
  induction count with
  | zero =>
    intro s hE hhost hst hk
    refine ends_vlenStep hhost hst fun size n hfl => ?_
    obtain ⟨h3, hv, hk2, hsizes⟩ := hE.at_sVlen hst
    have hprog := SameButProgress.flReturn size n s
    have hlast := ends_sVlast (engineInv_flReturn hst h3 hk2 hsizes hfl hv) (hprog.host.trans hhost)
      (by rw [flReturn_sVlen hst]; exact if_neg (by omega))
    obtain ⟨hhdr, hm, hpf, hpad⟩ := flReturn_frame hst size n
    have hm1 : s.m - 1 = s.w.k.toNat + 1 := by omega
    rw [hhdr, hm, hpf, hpad, hprog.len_eq, flReturn_off hst hfl, hm1, firstSizes_flReturn hst h3 hk2 hfl] at hlast
    rwa [vbrFrom_zero]
  | succ count ih =>
    intro s hE hhost hst hk
    refine ends_vlenStep hhost hst fun size n hfl => ?_
    obtain ⟨h3, hv, hk2, hsizes⟩ := hE.at_sVlen hst
    have hprog := SameButProgress.flReturn size n s
    have hmore : s.w.k.toNat + 2 < s.m := by omega
    have hmMax := h3.mMax
    obtain ⟨hhdr, hm, hpf, hpad⟩ := flReturn_frame hst size n
    have hk' : (flReturn size n s).w.k.toNat = s.w.k.toNat + 1 := by
      rw [flReturn_sVlen hst]
      dsimp only
      rw [if_pos hmore]
      exact Nat.mod_eq_of_lt (by omega)
    have hnext := ih (engineInv_flReturn hst h3 hk2 hsizes hfl hv) (hprog.host.trans hhost)
      (by rw [flReturn_sVlen hst]; exact if_pos hmore) (by rw [hk', hm]; omega)
    rwa [hhdr, hpf, hpad, hprog.len_eq, hprog.B_eq, hk', flReturn_off hst hfl, firstSizes_flReturn hst h3 hk2 hfl] at hnext

/-! ### Code 3 -/

/-- After the padding code (R168): the sizes, the last frame, or the CBR dispatch. -/
theorem ends_afterPadding {s : State} (h3 : Code3Held s) (hhost : s.host = []) :
    EndsWithin 50 (code3Verdict s.len s.w.lx s.B s.w.hdr s.w.fc (.ok (s.pad, s.off)))
      (code3Range s.w.lx s.w.hdr s.w.fc (.ok (s.pad, s.off))) (afterPadding s) := by
  have hE := engineInv_afterPadding h3
  have hmMax := h3.mMax
  obtain ⟨hv, hm, h⟩ | ⟨hv, hm, h⟩ | ⟨hv, h⟩ := afterPadding_cases s <;> rw [h] at hE ⊢ <;>
    rw [code3Verdict, code3Range, show fcV s.w.fc = _ from hv]
  · rw [if_pos rfl, Bool.or_true, if_pos rfl, vbrRule_eq]
    have hcount : (fcM s.w.fc).toNat - 1 = s.m - 2 + 1 := by unfold State.m at hm ⊢; omega
    rw [hcount]
    exact (ends_sVlen (s.m - 2) hE hhost rfl (Nat.add_sub_of_le hm)).mono (by omega)
  · rw [if_pos rfl, Bool.or_true, if_pos rfl, vbrRule_eq]
    have hcount : (fcM s.w.fc).toNat - 1 = 0 := by unfold State.m at hm; omega
    have hnone : firstSizes s (s.m - 1) = [] := by rw [show s.m - 1 = 0 from hcount]; rfl
    rw [hcount, vbrFrom_zero, ← hnone]
    exact (ends_sVlast hE hhost rfl).mono (by decide)
  · rw [if_neg (by decide), Bool.or_false]
    exact (ends_sCbr hE hhost rfl).mono (by decide)

section
variable {B : Nat → Option Byte} {i n : Nat}

theorem paddecFrom_cont (h : B (i + n) = some 255#8) (fuel total : Nat) :
    paddecFrom B i (fuel + 1) total n = paddecFrom B i fuel (total + 254) (n + 1) := by
  simp only [paddecFrom, h, if_true]

theorem paddecFrom_last {b : Byte} (h : B (i + n) = some b) (hb : b ≠ 255#8) (fuel total : Nat) :
    paddecFrom B i (fuel + 1) total n = .ok (total + b.toNat) (n + 1) := by
  simp only [paddecFrom, h, if_neg hb]

theorem paddecFrom_busError (h : B (i + n) = none) (fuel total : Nat) :
    paddecFrom B i (fuel + 1) total n = .busError := by
  simp only [paddecFrom, h]

end

/-- The run of PAD bytes (R168, R143) with `fuel` bytes of buffer to go. -/
theorem ends_sPad (fuel : Nat) : ∀ {s : State}, EngineInv s → s.host = [] → s.w.state = .sPad →
    s.len - (2 + s.w.np.toNat) = fuel → EndsWithin (fuel + 51)
      (code3Verdict s.len s.w.lx s.B s.w.hdr s.w.fc (padOutcome (paddecFrom s.B 2 fuel s.pad s.w.np.toNat)))
      (code3Range s.w.lx s.w.hdr s.w.fc (padOutcome (paddecFrom s.B 2 fuel s.pad s.w.np.toNat))) s := by
  induction fuel with
  | zero =>
    intro s _ hhost hst hfuel
    obtain ⟨-, he⟩ | ⟨hi, -⟩ | ⟨b, hi, -⟩ := engineStep_sPad_cases hst
    · exact .fail hhost he (.refl s) (boundaryAfter_none_refl s)
    · omega
    · omega
  | succ fuel ih =>
    intro s hE hhost hst hfuel
    obtain ⟨h3, hpf, hoff⟩ := hE.at_sPad hst
    obtain ⟨hi, -⟩ | ⟨-, hb, he⟩ | ⟨b, hi, hb, ⟨rfl, he⟩ | ⟨hlast, he⟩⟩ := engineStep_sPad_cases hst
    · omega
    · rw [paddecFrom_busError hb]
      exact .fail hhost he (.refl s) (boundaryAfter_none_refl s)
    · obtain ⟨hnp, -⟩ := padByte_np hoff hi 254
      have hpad := padByte_pad h3 hoff hi (Nat.le_refl 254)
      have hlen : (padByte 254 s).len = s.len := rfl
      have hnext := ih (engineInv_padByte h3 hoff hi hpf hst) hhost hst (by rw [hnp, hlen]; omega)
      rw [hpad, hnp] at hnext
      rw [paddecFrom_cont hb]
      exact .step hhost (he.trans exec_padCont_padByte) (.padByte 254 s) rfl hnext
    · have hle := byte_le_254 hlast
      obtain ⟨-, hoff'⟩ := padByte_np hoff hi b.toNat
      have hnext := ends_afterPadding (h3.padByte hoff hi hpf hle) hhost
      rw [padByte_pad h3 hoff hi hle, hoff', hoff, Nat.add_assoc] at hnext
      rw [paddecFrom_last hb hlast]
      exact .step hhost (he.trans (exec_padTerm_padByte hoff hi b)) (.trans (.padByte _ s) (.afterPadding _))
        (afterPadding_csr _) (hnext.mono (by omega))

/-- The FC byte (R167), and with it the rest of the packet. -/
theorem ends_sFc {s : State} (hE : EngineInv s) (hhost : s.host = []) (hst : s.w.state = .sFc) :
    EndsWithin (s.len + 52) (c3Rule s.len s.w.lx s.B s.w.toc) (c3Range s.len s.w.lx s.B s.w.toc) s := by
  obtain ⟨hheld, hcode, -⟩ := hE.at_sFc hst
  obtain ⟨hL, he⟩ | ⟨hL, hb, he⟩ | ⟨fc, hL, hb, ⟨hm, he⟩ | ⟨hm, he⟩⟩ := engineStep_sFc_cases hst hcode
  · obtain ⟨hrule, hrange⟩ := c3_short (lx := s.w.lx) (B := s.B) (toc := s.w.toc) hL
    rw [hrule, hrange]
    exact .fail hhost he (.refl s) (boundaryAfter_none_refl s)
  · obtain ⟨hrule, hrange⟩ := c3_unread (lx := s.w.lx) (toc := s.w.toc) hL hb
    rw [hrule, hrange]
    exact .fail hhost he (.refl s) (boundaryAfter_none_refl s)
  · obtain ⟨hrule, hrange⟩ := c3_illegal (lx := s.w.lx) (toc := s.w.toc) hL hb hm
    rw [hrule, hrange]
    exact .fail hhost he (.ofWork { s.w with fc := fc, off := 2#24 } rfl rfl rfl) (boundaryAfter_none_refl s)
  · obtain ⟨hrule, hrange⟩ := c3_legal (lx := s.w.lx) (toc := s.w.toc) hL hb hm
    have h3 := code3Held_readFc hheld hcode hL hm
    have hhdr : (readFc fc s).w.hdr = headerOf s.w.toc fc := h3.header.hdr_eq
    rw [hrule, hrange, ← hhdr]
    refine .step hhost he (.c3Header fc s) (c3Header_csr fc s) ?_
    obtain ⟨hp, h⟩ | ⟨hp, h⟩ := c3Header_cases fc s
    · have hE' := engineInv_c3Header hheld hcode hL hm
      rw [h] at hE' ⊢
      rw [hp, padRule_true]
      exact (ends_sPad (s.len - 2) hE' hhost rfl rfl).mono (by omega)
    · rw [h, hp]
      exact (ends_afterPadding h3 hhost).mono (by omega)

/-! ### From the TOC byte on -/

/-- The state machine computes DECODE (R160): the code of the TOC byte selects the shape. -/
theorem ends_sToc {s : State} (hhost : s.host = []) (hst : s.w.state = .sToc) :
    EndsWithin (s.len + 53) (decodePacket s.len s.w.lx s.B) (rangeReached s.len s.w.lx s.B) s := by
  obtain ⟨hL, he⟩ | ⟨hL, hb, he⟩ | ⟨toc, hL, hb, he⟩ := engineStep_sToc_cases hst
  · obtain ⟨hrule, hrange⟩ := decodePacket_empty (lx := s.w.lx) s.B
    rw [hL, hrule, hrange]
    exact .fail hhost he (.refl s) (boundaryAfter_none_refl s)
  · obtain ⟨hrule, hrange⟩ := decodePacket_unread (lx := s.w.lx) hL hb
    rw [hrule, hrange]
    exact .fail hhost he (.refl s) (boundaryAfter_none_refl s)
  · have hE := engineInv_splitToc toc hL
    have hhdr : (s.splitToc toc).w.hdr = headerOf toc 0#8 := HeaderHeld.hdr_eq ⟨rfl, rfl⟩
    have hstate : (s.splitToc toc).w.state = stateOfCode (tocCode toc) := rfl
    rw [decodePacket_of_toc hL hb, rangeReached_eq hb]
    refine .step hhost he (.ofWork _ rfl rfl rfl) rfl ?_
    obtain hc | hc | hc | hc := code_cases (tocCode toc) <;> rw [hc] at hstate ⊢
    · exact (hhdr ▸ ends_code0 hE hhost hstate hc).mono (by omega)
    · exact (hhdr ▸ ends_code1 hE hhost hstate hc).mono (by omega)
    · exact (hhdr ▸ ends_sC2a hE hhost hstate).mono (by omega)
    · exact ends_sFc hE hhost hstate

/-! ### From any BUSY state -/

theorem Completes.visible {v : Verdict} {s t : State} (h : Completes v s t) : t.visible = .done ∨ t.visible = .waitBnd := by
  cases v with
  | done p => exact .inl h.1
  | error e => exact .inl h.1
  | needBoundary c => exact .inr h.1

/-- Every BUSY state ends in some outcome (42_packet_fsm R207). -/
theorem ends_of_busy {s : State} (hE : EngineInv s) (hhost : s.host = []) (hbusy : s.visible = .busy) :
    ∃ v c, EndsWithin (s.len + 60) v c s := by
  cases hst : s.w.state with
  | sIdle | sWaitBnd | sDone => rw [State.visible, hst] at hbusy; cases hbusy
  | sToc => exact ⟨_, _, (ends_sToc hhost hst).mono (by omega)⟩
  | sSd =>
    obtain ⟨-, hcode | hcode, -⟩ := hE.at_sSd hst
    · exact ⟨_, _, (ends_code0 hE hhost hst hcode).mono (by omega)⟩
    · exact ⟨_, _, (ends_code1 hE hhost hst hcode).mono (by omega)⟩
  | sC2a => exact ⟨_, _, (ends_sC2a hE hhost hst).mono (by omega)⟩
  | sC2b => exact ⟨_, _, (ends_sC2b hE hhost hst).mono (by omega)⟩
  | sFc => exact ⟨_, _, (ends_sFc hE hhost hst).mono (by omega)⟩
  | sPad => exact ⟨_, _, (ends_sPad _ hE hhost hst rfl).mono (by omega)⟩
  | sVlen =>
    obtain ⟨h3, -, hk, -⟩ := hE.at_sVlen hst
    have hmMax := h3.mMax
    exact ⟨_, _, (ends_sVlen _ hE hhost hst (Nat.add_sub_of_le hk)).mono (by omega)⟩
  | sVlast => exact ⟨_, _, (ends_sVlast hE hhost hst).mono (by omega)⟩
  | sCbr => exact ⟨_, _, (ends_sCbr hE hhost hst).mono (by omega)⟩
  | sCfin => exact ⟨_, _, (ends_sCfin hE hhost hst).mono (by omega)⟩

/-! ## The outcome fixes the CSRs (10_state R51; 42_packet_fsm R208) -/

theorem FrameFile.ext {f g : FrameFile} (h : ∀ k < 48, (FrameFile.at f k).toNat = (FrameFile.at g k).toNat) : f = g := by
  refine Vector.ext fun k hk => BitVec.eq_of_toNat_eq ?_
  simpa [FrameFile.at, hk] using h k hk

theorem Pkt.eq_of_fields {p q : Pkt} (hcount : p.frameCount.toNat = q.frameCount.toNat) (hsd : p.selfDelim = q.selfDelim)
    (hcbr : p.isCbr = q.isCbr) (hpad : p.hasPadding = q.hasPadding) : p = q := by
  obtain ⟨n, a, b, c⟩ := p
  obtain ⟨n', a', b', c'⟩ := q
  rw [Pkt.mk.injEq]
  exact ⟨BitVec.eq_of_toNat_eq hcount, hsd, hcbr, hpad⟩

/-- Registers that hold the same packet are the same. -/
theorem Holds.sameResults {p : Packet} {s t : State} (hs : Holds p s) (ht : Holds p t) : SameResults s t := by
  obtain ⟨hhdr, hcount, hsd, hcbr, hpf, hoff, hpad, htotal, hframes⟩ := hs
  obtain ⟨hhdr', hcount', hsd', hcbr', hpf', hoff', hpad', htotal', hframes'⟩ := ht
  exact ⟨hhdr'.trans hhdr.symm,
    Pkt.eq_of_fields (hcount'.trans hcount.symm) (hsd'.trans hsd.symm) (hcbr'.trans hcbr.symm) (hpf'.trans hpf.symm),
    BitVec.eq_of_toNat_eq (hoff'.trans hoff.symm), BitVec.eq_of_toNat_eq (hpad'.trans hpad.symm),
    BitVec.eq_of_toNat_eq (htotal'.trans htotal.symm), FrameFile.ext fun k hk => (hframes' k hk).trans (hframes k hk).symm⟩

/-- The flags of `STATUS` and the visible engine state are the same. -/
def SameStatus (s t : State) : Prop :=
  t.visible = s.visible ∧ t.csr.resultValid = s.csr.resultValid ∧ t.csr.unresolved = s.csr.unresolved ∧
    t.csr.err = s.csr.err ∧ t.csr.irqPend = s.csr.irqPend

/-- The four groups are all of the CSRs. -/
theorem csr_eq_of_groups {s t : State} (hres : SameResults s t) (hbnd : SameBoundary s t) (hdesc : SameDescriptor s t)
    (hstatus : SameStatus s t) : t.csr = s.csr := by
  obtain ⟨hhdr, hpkt, hoff, hpad, htotal, hframes⟩ := hres
  obtain ⟨hmin, hmax, hsig, hbndTotal⟩ := hbnd
  obtain ⟨hexact, hirqEn, hbase, hlen⟩ := hdesc
  obtain ⟨-, hvalid, hunres, herr, hirq⟩ := hstatus
  obtain ⟨⟨⟩, _⟩ := s
  obtain ⟨⟨⟩, _⟩ := t
  rw [Csr.mk.injEq]
  exact ⟨hexact, hirqEn, hvalid, hunres, herr, hirq, hbase, hlen, hhdr, hpkt, hoff, hpad, htotal, hframes, hmin, hmax, hsig,
    hbndTotal⟩

section
variable {s s' t t' : State} (hcsr : s.csr = s'.csr)
include hcsr

/-- From the same CSRs the same outcome leaves the same results and status. -/
theorem Completes.agree {v : Verdict} (h : Completes v s t) (h' : Completes v s' t') : SameResults t t' ∧ SameStatus t t' := by
  cases v with
  | done p =>
    obtain ⟨hvis, hholds, hvalid, hunres, herr, hirq⟩ := h
    obtain ⟨hvis', hholds', hvalid', hunres', herr', hirq'⟩ := h'
    exact ⟨hholds.sameResults hholds', hvis'.trans hvis.symm, hvalid'.trans hvalid.symm, hunres'.trans hunres.symm,
      herr'.trans herr.symm, hirq'.trans hirq.symm⟩
  | error e =>
    obtain ⟨hvis, ⟨r1, r2, r3, r4, r5, r6⟩, hvalid, hunres, herr, hirq⟩ := h
    obtain ⟨hvis', hres', hvalid', hunres', herr', hirq'⟩ := h'
    rw [SameResults, ← hcsr, ← r1, ← r2, ← r3, ← r4, ← r5, ← r6] at hres'
    rw [← hcsr] at hvalid' hunres'
    exact ⟨hres', hvis'.trans hvis.symm, hvalid'.trans hvalid.symm, hunres'.trans hunres.symm, herr'.trans herr.symm,
      hirq'.trans hirq.symm⟩
  | needBoundary c =>
    obtain ⟨hvis, ⟨r1, r2, r3, r4, r5, r6⟩, hvalid, hunres, herr, hirq, -⟩ := h
    obtain ⟨hvis', hres', hvalid', hunres', herr', hirq', -⟩ := h'
    rw [SameResults, ← hcsr, ← r1, ← r2, ← r3, ← r4, ← r5, ← r6] at hres'
    rw [← hcsr] at hvalid' hunres' herr'
    exact ⟨hres', hvis'.trans hvis.symm, hvalid'.trans hvalid.symm, hunres'.trans hunres.symm, herr'.trans herr.symm,
      hirq'.trans hirq.symm⟩

theorem BoundaryAfter.agree {c : Option BoundaryCtx} (h : BoundaryAfter c s t) (h' : BoundaryAfter c s' t') :
    SameBoundary t t' := by
  cases c with
  | none =>
    obtain ⟨h1, h2, h3, h4⟩ := h
    obtain ⟨h1', h2', h3', h4'⟩ := h'
    rw [← hcsr] at h1' h2' h3' h4'
    exact ⟨h1'.trans h1.symm, h2'.trans h2.symm, h3'.trans h3.symm, h4'.trans h4.symm⟩
  | some c =>
    obtain ⟨h1, h2, h3, h4⟩ := h
    obtain ⟨h1', h2', h3', h4'⟩ := h'
    rw [← hcsr] at h4'
    exact ⟨BitVec.eq_of_toNat_eq (h1'.trans h1.symm), BitVec.eq_of_toNat_eq (h2'.trans h2.symm), h3'.trans h3.symm,
      h4'.trans h4.symm⟩

theorem SameDescriptor.agree (h : SameDescriptor s t) (h' : SameDescriptor s' t') : SameDescriptor t t' := by
  obtain ⟨h1, h2, h3, h4⟩ := h
  obtain ⟨h1', h2', h3', h4'⟩ := h'
  rw [← hcsr] at h1' h2' h3' h4'
  exact ⟨h1'.trans h1.symm, h2'.trans h2.symm, h3'.trans h3.symm, h4'.trans h4.symm⟩

end

/-- START in IDLE (44_host_interface R251). -/
theorem exec_cmdStart_idle {s : State} (hst : s.w.state = .sIdle) (lenExact irqEn : Bool) :
    exec (.cmdStart false lenExact irqEn) s = .next (startDecode (s.writeCtrl lenExact irqEn)) := by
  have haccepts : (s.writeCtrl lenExact irqEn).acceptsStart = true := by simp [State.acceptsStart, hst]
  rw [exec, execCmdStart, haccepts]; rfl

/-! ## The obligations -/

/-- Settles O55: within `w.L + 53` steps, state by state along R181. -/
theorem stateMachineComputesDecode : Obligations.StateMachineComputesDecode := by
  intro s hst hhost
  exact (ends_sToc hhost hst).mono (by omega)

/-- Settles O57: from every BUSY state the decode completes, and then shows DONE or WAIT_BND. -/
theorem everyBusyEnds : Obligations.EveryBusyEnds := by
  intro s hE hbusy hhost
  obtain ⟨v, c, n, t, hn, hrun, hv, -⟩ := ends_of_busy hE hhost hbusy
  exact ⟨n, t, hn, hrun, hv.visible⟩

/-- Settles O56: both machines start the same decode, whose outcome fixes every CSR. -/
theorem outcomeIgnoresHiddenRegisters : Obligations.OutcomeIgnoresHiddenRegisters := by
  intro s s' lenExact irqEn hst hst' hhost hhost' hcsr hmem hplat
  have hu := ends_sToc (s := startDecode (s.writeCtrl lenExact irqEn)) hhost rfl
  have hu' := ends_sToc (s := startDecode (s'.writeCtrl lenExact irqEn)) hhost' rfl
  have hcsrU : (startDecode (s.writeCtrl lenExact irqEn)).csr = (startDecode (s'.writeCtrl lenExact irqEn)).csr := by
    simp only [startDecode, writeCtrl_csr, hcsr]
  have hlen : (startDecode (s'.writeCtrl lenExact irqEn)).len = (startDecode (s.writeCtrl lenExact irqEn)).len := by
    simp only [State.len, startDecode_w_len, writeCtrl_csr, hcsr]
  have hB : (startDecode (s'.writeCtrl lenExact irqEn)).B = (startDecode (s.writeCtrl lenExact irqEn)).B := by
    funext i
    simp only [State.B, startDecode_platform, startDecode_mem, startDecode_w_base, writeCtrl_platform, writeCtrl_mem,
      writeCtrl_csr, hcsr, hmem, hplat]
  rw [hlen, hB] at hu'
  obtain ⟨n, t, -, hrun, hv, hc, hd, -, hmemT, -⟩ := hu
  obtain ⟨n', t', -, hrun', hv', hc', hd', -⟩ := hu'
  obtain ⟨hres, hstatus⟩ := hv.agree hcsrU hv'
  exact ⟨_, _, t, t', n, n', exec_cmdStart_idle hst lenExact irqEn, exec_cmdStart_idle hst' lenExact irqEn, hrun, hrun',
    hv.visible, hstatus.1.symm, (csr_eq_of_groups hres (hc.agree hcsrU hc') (hd.agree hcsrU hd') hstatus).symm, hmemT⟩

end Sys2Proof.Machine

namespace Sys2Proof.Machine

/-! ## The boundary search (43_boundary R231) -/

/-- A candidate the search takes: its two bytes lie in the buffer, are those of the packet's header, and pass the extra test
of strong mode (R231, R232). -/
def Accepted (B : Nat → Option Byte) (L : Nat) (toc fc : Byte) (accept : Nat → Bool) (c : Nat) : Prop :=
  c + 1 < L ∧ B c = some toc ∧ B (c + 1) = some fc ∧ accept c = true

section
variable {B : Nat → Option Byte} {L c : Nat} {toc fc : Byte} {accept : Nat → Bool}

theorem searchFrom_past_end (h : L ≤ c + 1) (fuel : Nat) : searchFrom B L toc fc accept fuel c = 0 := by
  cases fuel with
  | zero => rfl
  | succ fuel => exact if_pos h

theorem searchFrom_accepted (h : Accepted B L toc fc accept c) (fuel : Nat) :
    searchFrom B L toc fc accept (fuel + 1) c = c := by
  obtain ⟨hL, htoc, hfc, haccept⟩ := h
  rw [searchFrom, if_neg (by omega), if_pos (by simp [htoc, hfc, haccept])]

theorem searchFrom_not_accepted (hL : c + 1 < L) (h : ¬ Accepted B L toc fc accept c) (fuel : Nat) :
    searchFrom B L toc fc accept (fuel + 1) c = searchFrom B L toc fc accept fuel (c + 1) := by
  rw [searchFrom, if_neg (by omega), if_neg]
  intro hhit
  simp only [Bool.and_eq_true, beq_iff_eq] at hhit
  obtain ⟨⟨htoc, hfc⟩, haccept⟩ := hhit
  exact h ⟨hL, htoc, hfc, haccept⟩

end

/-- The search answers 0 and accepts none of its candidates, or it answers the first one it accepts. -/
theorem searchFrom_cases (B : Nat → Option Byte) (L : Nat) (toc fc : Byte) (accept : Nat → Bool) (fuel c : Nat) :
    (searchFrom B L toc fc accept fuel c = 0 ∧ ∀ c', c ≤ c' → c' < c + fuel → ¬ Accepted B L toc fc accept c') ∨
    ∃ r, searchFrom B L toc fc accept fuel c = r ∧ c ≤ r ∧ r < c + fuel ∧ Accepted B L toc fc accept r ∧
      ∀ c', c ≤ c' → c' < r → ¬ Accepted B L toc fc accept c' := by
  induction fuel generalizing c with
  | zero => exact .inl ⟨rfl, fun c' _ _ => by omega⟩
  | succ fuel ih =>
    by_cases hL : c + 1 < L
    · by_cases hhit : Accepted B L toc fc accept c
      · exact .inr ⟨c, searchFrom_accepted hhit fuel, le_rfl, by omega, hhit, fun c' _ _ => by omega⟩
      · rw [searchFrom_not_accepted hL hhit]
        have hskip : ∀ c', c ≤ c' → (c + 1 ≤ c' → ¬ Accepted B L toc fc accept c') → ¬ Accepted B L toc fc accept c' :=
          fun c' hc hrest => hc.eq_or_lt.elim (fun heq => heq ▸ hhit) hrest
        obtain ⟨hzero, hnone⟩ | ⟨r, hr, hlow, hhigh, hacc, hfirst⟩ := ih (c + 1)
        · exact .inl ⟨hzero, fun c' hc hc' => hskip c' hc fun hlt => hnone c' hlt (by omega)⟩
        · exact .inr ⟨r, hr, by omega, by omega, hacc, fun c' hc hc' => hskip c' hc fun hlt => hfirst c' hlt hc'⟩
    · refine .inl ⟨searchFrom_past_end (by omega) _, fun c' hc _ hacc => ?_⟩
      have := hacc.1
      omega

/-- Outside strong mode the two bytes alone decide. -/
theorem accepted_plain_iff (B : Nat → Option Byte) (L : Nat) (toc fc : Byte) (c : Nat) :
    Accepted B L toc fc (fun c => !false || decodesAt B L c) c ↔ c + 1 < L ∧ B c = some toc ∧ B (c + 1) = some fc := by
  simp [Accepted]

/-! ## The range in its registers (43_boundary R229) -/

/-- In the three states of a CBR decode whose range matters, the code-3 header is held. -/
theorem EngineInv.code3Held_of_range {s : State} (h : EngineInv s)
    (hst : s.w.state = .sCbr ∨ s.w.state = .sWaitBnd ∨ s.w.state = .sCfin) : Code3Held s := by
  obtain hst | hst | hst := hst
  · exact (h.at_sCbr hst).1
  · exact (h.at_sWaitBnd hst).1
  · exact (h.at_sCfin hst).1

/-- Header and padding together stay below 255 bytes for each byte a buffer can have. -/
theorem Code3Held.off_add_pad_lt {s : State} (h : Code3Held s) : s.off + s.pad < 255 * 2 ^ 24 := by
  have hoff := h.offMax
  have hpad := h.padMax
  have hlen := s.len_lt
  omega

theorem Code3Held.rangeMax_le {s : State} (h : Code3Held s) :
    rangeMax s.off s.pad s.m ≤ 255 * 2 ^ 24 + 1275 * 48 := by
  have hsum := h.off_add_pad_lt
  have hm := h.mMax
  unfold rangeMax Config.bndMaxFrame
  omega

/-! ## RESUME (43_boundary R226) -/

section
variable {s : State} (lenExact irqEn : Bool)

theorem exec_cmdResume_elsewhere (hst : s.w.state ≠ .sWaitBnd) :
    exec (.cmdResume lenExact irqEn) s = .next (s.writeCtrl lenExact irqEn) :=
  congrArg Host.Outcome.next (if_neg hst)

theorem exec_cmdResume_waiting (hst : s.w.state = .sWaitBnd) :
    exec (.cmdResume lenExact irqEn) s = .next (resume (s.writeCtrl lenExact irqEn)) :=
  congrArg Host.Outcome.next (if_pos hst)

end

theorem resume_of_zero {s : State} (h : s.csr.bndTotal = 0#32) :
    resume s = commitUnresolved { s with w := { s.w with t := 0#32 } } :=
  (resume_cases s).elim (·.2) fun hne => absurd h hne.1

theorem resume_of_ne_zero {s : State} (h : s.csr.bndTotal ≠ 0#32) :
    resume s = { s with w := { s.w with t := s.csr.bndTotal, state := .sCfin } } :=
  (resume_cases s).elim (fun heq => absurd heq.1 h) (·.2)

/-! ## The obligations -/

/-- Settles O58: an answer 0 cannot be a candidate when the range begins above 0, so it says that none matches. -/
theorem searchFindsFirstMatch : Obligations.SearchFindsFirstMatch := by
  rintro B L lo hi toc fc c rfl
  have hcases := searchFrom_cases B L toc fc (fun c => !false || decodesAt B L c) (hi + 1 - lo) lo
  simp only [accepted_plain_iff] at hcases
  rw [search]
  obtain ⟨hzero, hnone⟩ | ⟨r, hr, hlow, hhigh, ⟨hL, htoc, hfc⟩, hfirst⟩ := hcases
  · exact ⟨fun hne => absurd hzero hne, fun _ _ c' hc hc' hL hm => hnone c' hc (by omega) ⟨hL, hm⟩⟩
  · rw [hr]
    exact ⟨fun _ => ⟨hlow, by omega, hL, htoc, hfc, fun c' hc hc' hm => hfirst c' hc hc' ⟨by omega, hm⟩⟩,
      fun _ _ => by omega⟩

/-- Settles O29: the CTRL bits are written first, then RESUME acts in WAIT_BND by the value of `BND_TOTAL`. -/
theorem resumeCommand : Obligations.ResumeCommand := by
  rintro lenExact irqEn s c rfl
  refine ⟨exec_cmdResume_elsewhere lenExact irqEn, fun hst hzero => ?_, fun hst hne => ?_⟩
  · rw [exec_cmdResume_waiting lenExact irqEn hst, resume_of_zero (s := s.writeCtrl lenExact irqEn) hzero]; rfl
  · rw [exec_cmdResume_waiting lenExact irqEn hst, resume_of_ne_zero (s := s.writeCtrl lenExact irqEn) hne]; rfl

/-- Settles O50: the code-3 header of those states bounds the sums the range is made of. -/
theorem rangeFitsItsRegisters : Obligations.RangeFitsItsRegisters := by
  intro s hE hst
  have h3 := hE.code3Held_of_range hst
  exact ⟨h3.offMax, Nat.le_pred_of_lt s.len_lt, h3.padMax, h3.off_add_pad_lt, rangeMin_le_rangeMax _ _ _, h3.rangeMax_le,
    by decide⟩

end Sys2Proof.Machine

namespace Sys2Proof.Machine

/-! ## The CTRL writes (44_host_interface R250–R254) -/

theorem acceptsStart_iff (s : State) : s.acceptsStart = true ↔ s.w.state = .sIdle ∨ s.w.state = .sDone := by
  simp [State.acceptsStart]

section
variable {s : State} (resumeBit lenExact irqEn : Bool)

/-- A START that is accepted acts as START alone, whatever its RESUME bit (R254). -/
theorem exec_cmdStart_accepted (h : s.w.state = .sIdle ∨ s.w.state = .sDone) :
    exec (.cmdStart resumeBit lenExact irqEn) s = .next (startDecode (s.writeCtrl lenExact irqEn)) :=
  congrArg Host.Outcome.next (if_pos ((acceptsStart_iff _).mpr h))

/-- A START that is not accepted leaves what its RESUME bit asks for (R254). -/
theorem exec_cmdStart_ignored (h : ¬ (s.w.state = .sIdle ∨ s.w.state = .sDone)) :
    exec (.cmdStart resumeBit lenExact irqEn) s =
      if resumeBit then exec (.cmdResume lenExact irqEn) s else .next (s.writeCtrl lenExact irqEn) := by
  have hrefused := (acceptsStart_iff (s.writeCtrl lenExact irqEn)).not.mpr h
  cases resumeBit <;> exact congrArg Host.Outcome.next (if_neg hrefused)

end

/-- A state in BUSY or WAIT_BND accepts no START. -/
theorem not_accepting_of_running {s : State} (h : s.visible = .busy ∨ s.visible = .waitBnd) :
    ¬ (s.w.state = .sIdle ∨ s.w.state = .sDone) := by
  rintro (hst | hst) <;> simp [State.visible, hst, EngineState.visible] at h

/-! ### The row of a CTRL word (30_encoding R105) -/

section
variable {d : Word}

theorem decodeCtrl_abort (h2 : d.getLsbD 2 = true) : decodeCtrl d = .cmdAbort (d.getLsbD 8) (d.getLsbD 9) := if_pos h2

theorem decodeCtrl_start (h2 : d.getLsbD 2 = false) (h0 : d.getLsbD 0 = true) :
    decodeCtrl d = .cmdStart (d.getLsbD 1) (d.getLsbD 8) (d.getLsbD 9) := by rw [decodeCtrl, h2, h0]; rfl

theorem decodeCtrl_resume (h2 : d.getLsbD 2 = false) (h0 : d.getLsbD 0 = false) (h1 : d.getLsbD 1 = true) :
    decodeCtrl d = .cmdResume (d.getLsbD 8) (d.getLsbD 9) := by rw [decodeCtrl, h2, h0, h1]; rfl

theorem decodeCtrl_config (h2 : d.getLsbD 2 = false) (h0 : d.getLsbD 0 = false) (h1 : d.getLsbD 1 = false) :
    decodeCtrl d = .wrCtrlCfg (d.getLsbD 8) (d.getLsbD 9) := by rw [decodeCtrl, h2, h0, h1]; rfl

end

/-- A CTRL word without ABORT, in a state that takes neither of its command bits, writes the CTRL bits alone. -/
theorem exec_decodeCtrl_ineffective {d : Word} {s : State} (h2 : d.getLsbD 2 = false)
    (hstart : d.getLsbD 0 = false ∨ s.w.state ≠ .sIdle ∧ s.w.state ≠ .sDone)
    (hresume : d.getLsbD 1 = false ∨ s.w.state ≠ .sWaitBnd) :
    exec (decodeCtrl d) s = .next (s.writeCtrl (d.getLsbD 8) (d.getLsbD 9)) := by
  have resume_ignored : d.getLsbD 1 = true →
      exec (.cmdResume (d.getLsbD 8) (d.getLsbD 9)) s = .next (s.writeCtrl (d.getLsbD 8) (d.getLsbD 9)) := fun h1 =>
    exec_cmdResume_elsewhere _ _ (hresume.resolve_left (by simp [h1]))
  cases h0 : d.getLsbD 0 with
  | true =>
    have hrefused := not_or.mpr (hstart.resolve_left (by simp [h0]))
    rw [decodeCtrl_start h2 h0, exec_cmdStart_ignored _ _ _ hrefused]
    cases h1 : d.getLsbD 1 with
    | true => exact resume_ignored h1
    | false => rfl
  | false =>
    cases h1 : d.getLsbD 1 with
    | true => rw [decodeCtrl_resume h2 h0 h1]; exact resume_ignored h1
    | false => rw [decodeCtrl_config h2 h0 h1]; rfl

/-! ## The configuration writes (R256) -/

/-- A word cut to `w` bits by a remainder is the word under the mask of its low `w` bits. -/
theorem ofNat_mod_two_pow (d : Word) (w : Nat) : BitVec.ofNat 32 (d.toNat % 2 ^ w) = d &&& BitVec.ofNat 32 (2 ^ w - 1) := by
  ext i hi
  simp only [ofNat_getElem _ _ _ hi, BitVec.getElem_and, Nat.testBit_mod_two_pow, Nat.testBit_two_pow_sub_one,
    BitVec.testBit_toNat, BitVec.getLsbD_eq_getElem hi]
  exact Bool.and_comm _ _

/-- The low 24 bits of a word, read back as a word. -/
theorem setWidth_24_setWidth_32 (d : Word) : (d.setWidth 24).setWidth 32 = d &&& 0x00FFFFFF#32 := by
  refine BitVec.eq_of_toNat_eq ?_
  rw [BitVec.toNat_and, toNat_setWidth_32 (by decide), BitVec.toNat_setWidth]
  exact (Nat.and_two_pow_sub_one_eq_mod d.toNat 24).symm

/-! ## The read map (R257; 10_state R23) -/

theorem toNat_ctrlRead (s : State) : s.ctrlRead.toNat = 256 * s.csr.lenExact.toNat + 512 * s.csr.irqEn.toNat := by
  have hexact := Bool.toNat_lt s.csr.lenExact
  have hirqEn := Bool.toNat_lt s.csr.irqEn
  exact Nat.mod_eq_of_lt (by omega)

theorem toNat_statusRead (s : State) : s.statusRead.toNat = s.visible.code + 16 * s.csr.resultValid.toNat
    + 32 * s.csr.unresolved.toNat + 256 * errCode s.csr.err + 65536 * s.csr.irqPend.toNat := by
  have hcode := s.visible.code_lt
  have hvalid := Bool.toNat_lt s.csr.resultValid
  have hunres := Bool.toNat_lt s.csr.unresolved
  have herr := errCode_lt s.csr.err
  have hirq := Bool.toNat_lt s.csr.irqPend
  exact Nat.mod_eq_of_lt (by omega)

/-! ## The obligations -/

/-- Settles O28: in IDLE or DONE the START is accepted; in BUSY and in WAIT_BND it leaves the CTRL update alone. -/
theorem startCommand : Obligations.StartCommand := by
  refine ⟨fun d h0 h2 => ?_, fun resumeBit lenExact irqEn s => ⟨fun hst => ?_, fun hrun => ?_⟩⟩
  · rw [decode_ctrlWrite, decodeCtrl_start h2 h0]
  · rw [exec_cmdStart_accepted _ _ _ hst]; rfl
  · rw [exec_cmdStart_ignored _ _ _ (not_accepting_of_running (hrun.imp_right And.left))]
    obtain hbusy | ⟨-, rfl⟩ := hrun
    · have helse : s.w.state ≠ .sWaitBnd := fun hst => by simp [State.visible, hst, EngineState.visible] at hbusy
      rw [exec_cmdResume_elsewhere _ _ helse, ite_self]; rfl
    · rfl

/-- Settles O30: ABORT is the first row of a CTRL word, and its meaning looks at no state. -/
theorem abortCommand : Obligations.AbortCommand :=
  ⟨fun d h2 => by rw [decode_ctrlWrite, decodeCtrl_abort h2], fun _ _ _ => rfl⟩

/-- Settles O31: the row of the word by its bits, and the row's meaning by the state. -/
theorem ctrlWritePriority : Obligations.CtrlWritePriority := by
  rintro d s le ie rfl rfl
  refine ⟨decodeCtrl d, decode_ctrlWrite d, fun h2 => ?_, fun h2 h0 hst => ?_, fun h2 h1 hst => ?_,
    fun h2 hstart hresume => exec_decodeCtrl_ineffective h2 hstart hresume⟩
  · rw [decodeCtrl_abort h2]
  · rw [decodeCtrl_start h2 h0, exec_cmdStart_accepted _ _ _ hst, exec_cmdStart_accepted _ _ _ hst]
  · cases h0 : d.getLsbD 0 with
    | true => rw [decodeCtrl_start h2 h0, exec_cmdStart_ignored _ _ _ (by simp [hst]), h1]; rfl
    | false => rw [decodeCtrl_resume h2 h0 h1]

/-- Settles O32: each mask is the width of the register. -/
theorem configurationWrites : Obligations.ConfigurationWrites := fun _ _ d s =>
  ⟨rfl, by rw [exec, execWrBufBase, ofNat_mod_two_pow], ⟨_, rfl, rfl, setWidth_24_setWidth_32 d⟩, rfl⟩

/-- Settles O33: IRQ_ACK clears the one flag `irq` needs; without bit 16 a STATUS write has no row. -/
theorem irqAckCommand : Obligations.IrqAckCommand := fun s d =>
  ⟨rfl, Bool.false_and _, fun h16 => by rw [decode_statusWrite, h16]; rfl, fun h16 => by
    have hd := decode_statusWrite d
    rw [h16] at hd
    rw [csrPort, ← csrWriteOf, hd]; rfl⟩

/-- Settles O34: the map's row at each offset, and the number its word stands for. -/
theorem csrReadCommand : Obligations.CsrReadCommand := by
  refine fun o s => ⟨s.csrRead (4 * o.toNat), rfl, ?_, ?_, ?_, ?_, ?_, ?_, ?_, ?_, ?_, ?_, ?_, ?_, ?_, ?_, ?_, ?_⟩
  · rintro rfl; exact toNat_ctrlRead s
  · rintro rfl
    refine (toNat_statusRead s).trans ?_
    rw [State.visible]
    cases s.w.state <;> rfl
  · rintro rfl; rfl
  · rintro rfl; exact toNat_setWidth_32 (n := 24) (by decide) s.csr.bufLen
  · rintro rfl; rfl
  · rintro rfl; rfl
  · rintro rfl; exact toNat_setWidth_32 (n := 24) (by decide) s.csr.payloadOffset
  · rintro rfl; rfl
  · rintro rfl; exact toNat_setWidth_32 (n := 24) (by decide) s.csr.totalSize
  · rintro rfl; rfl
  · rintro rfl; rfl
  · rintro rfl; exact toNat_setWidth_32 (n := 16) (by decide) s.csr.bndSig
  · rintro rfl; rfl
  · exact fun hlow hhigh => csrRead_reserved s (by omega)
  · intro k hk ho
    rw [ho, show 4 * (64 + k) = 0x100 + 4 * k by omega, csrRead_frameSize s hk]
    exact toNat_setWidth_32 (by decide) _
  · exact fun hhigh => csrRead_reserved s (by omega)

end Sys2Proof.Machine

namespace Sys2Proof.Machine

/-! ## The shape of a result that DECODE answers (42_packet_fsm R160, R175) -/

/-- As many frames as the count says, no more than FRAME_SIZE holds, and a payload after the TOC byte. -/
def Result.Shaped (r : Result) : Prop := r.frames.length = r.frameCount ∧ r.frameCount ≤ 48 ∧ 1 ≤ r.payloadOffset

/-- Every result among the outcomes of a rule has the shape. -/
def ShapedOk (x : Except ErrKind Result) : Prop := ∀ r, x = .ok r → r.Shaped

theorem shapedOk_error (e : ErrKind) : ShapedOk (.error e) := fun _ h => by cases h

theorem shapedOk_ok {r : Result} (h : r.Shaped) : ShapedOk (.ok r) := fun _ hr => Except.ok.inj hr ▸ h

theorem shapedOk_plainResult {frames : List Nat} {off total : Nat} {sd : Bool} (hlen : frames.length ≤ 48) (hoff : 1 ≤ off) :
    ShapedOk (.ok (plainResult frames off total sd)) := shapedOk_ok ⟨rfl, hlen, hoff⟩

/-! ### Codes 0 to 2 -/

theorem c0Implicit_shaped (L : Nat) : ShapedOk (c0Implicit L) := by
  unfold c0Implicit
  split_ifs
  · exact shapedOk_error _
  · exact shapedOk_plainResult (by simp) le_rfl

theorem c0Rule_shaped (L : Nat) (B : Nat → Option Byte) : ShapedOk (c0Rule L B) := by
  unfold c0Rule
  split_ifs
  · exact shapedOk_plainResult (by simp) le_rfl
  · cases fldec L B 1 with
    | busError => exact shapedOk_error _
    | insufficient => exact c0Implicit_shaped L
    | ok size n =>
      rw [c0Decide]
      split_ifs
      · exact shapedOk_plainResult (by simp) (Nat.le_add_right 1 n)
      · exact c0Implicit_shaped L

theorem c1Implicit_shaped (L : Nat) : ShapedOk (c1Implicit L) := by
  unfold c1Implicit
  split_ifs
  · exact shapedOk_error _
  · exact shapedOk_error _
  · exact shapedOk_plainResult (by simp) le_rfl

theorem c1Decide_shaped (L : Nat) (a : FlVerdict) : ShapedOk (c1Decide L a) := by
  cases a with
  | busError => exact shapedOk_error _
  | insufficient => exact c1Implicit_shaped L
  | ok size n =>
    rw [c1Decide]
    split_ifs
    · exact shapedOk_plainResult (by simp) (Nat.le_add_right 1 n)
    · exact c1Implicit_shaped L

theorem c2Implicit_shaped (L s1 n1 : Nat) : ShapedOk (c2Implicit L s1 n1) := by
  unfold c2Implicit
  split_ifs
  · exact shapedOk_error _
  · exact shapedOk_error _
  · exact shapedOk_error _
  · exact shapedOk_plainResult (by simp) (Nat.le_add_right 1 n1)

theorem c2Decide_shaped (L s1 n1 : Nat) (a : FlVerdict) : ShapedOk (c2Decide L s1 n1 a) := by
  cases a with
  | busError => exact shapedOk_error _
  | insufficient => exact c2Implicit_shaped L s1 n1
  | ok s2 n2 =>
    rw [c2Decide]
    split_ifs
    · exact shapedOk_plainResult (by simp) (by omega)
    · exact c2Implicit_shaped L s1 n1

theorem c2Rule_shaped (L : Nat) (B : Nat → Option Byte) : ShapedOk (c2Rule L B) := by
  unfold c2Rule
  cases fldec L B 1 with
  | busError | insufficient => exact shapedOk_error _
  | ok s1 n1 => exact c2Decide_shaped L s1 n1 _

/-! ### Code 3 -/

/-- The explicit sizes are as many as were asked for, and the cursor does not move back. -/
theorem vbrSizes_ok {L : Nat} {B : Nat → Option Byte} (count : Nat) : ∀ {off : Nat} {sizes : List Nat} {off' : Nat},
    vbrSizes L B count off = .ok (sizes, off') → sizes.length = count ∧ off ≤ off' := by
  induction count with
  | zero =>
    intro off sizes off' h
    cases h
    exact ⟨rfl, le_rfl⟩
  | succ count ih =>
    intro off sizes off' h
    unfold vbrSizes at h
    cases hfl : fldec L B off with
    | busError | insufficient => rw [hfl] at h; cases h
    | ok size n =>
      cases hmore : vbrSizes L B count (off + n) with
      | error e => simp only [hfl, hmore] at h; cases h
      | ok more =>
        simp only [hfl, hmore] at h
        cases h
        obtain ⟨hlen, hoff⟩ := ih hmore
        exact ⟨congrArg Nat.succ hlen, by omega⟩

theorem vbrRule_shaped {L : Nat} {B : Nat → Option Byte} {pad off m : Nat} {pf : Bool} (hm : 1 ≤ m) (hm48 : m ≤ 48)
    (hoff : 2 ≤ off) : ShapedOk (vbrRule L B pad off m pf) := by
  unfold vbrRule
  cases hsizes : vbrSizes L B (m - 1) off with
  | error e => exact shapedOk_error _
  | ok x =>
    obtain ⟨hlen, hoff'⟩ := vbrSizes_ok _ hsizes
    dsimp only
    rw [vbrDecide]
    split_ifs
    · exact shapedOk_error _
    · exact shapedOk_error _
    · exact shapedOk_ok ⟨List.length_append, by dsimp only; omega, by dsimp only; omega⟩

section
variable {off pad m : Nat} {pf : Bool} (hm48 : m ≤ 48) (hoff : 2 ≤ off)
include hm48 hoff

theorem cbrSplit_shaped (L T : Nat) : ShapedOk (cbrSplit L T off pad m pf) := by
  intro r h
  obtain ⟨-, -, -, -, rfl⟩ := cbrSplit_ok_cases h
  exact ⟨List.length_replicate, hm48, (Nat.le_succ 1).trans hoff⟩

theorem unresolvedResult_shaped : (unresolvedResult off pad m pf).Shaped :=
  ⟨List.length_replicate, hm48, (Nat.le_succ 1).trans hoff⟩

end

/-- The padding code ends after the FC byte. -/
theorem le_of_padRule {L : Nat} {B : Nat → Option Byte} {p : Bool} {pad off : Nat} (h : padRule L B p = .ok (pad, off)) :
    2 ≤ off := by
  unfold padRule at h
  split_ifs at h
  · cases hpad : paddec L B 2 with
    | insufficient | busError => rw [hpad] at h; cases h
    | ok total n => rw [hpad] at h; cases h; exact Nat.le_add_right 2 n
  · cases h; exact le_rfl

/-! ### DECODE -/

/-- What an outcome says about its record, or about the record that RESUME will make (43_boundary R226). -/
def Verdict.Shaped : Verdict → Prop
  | .done p => p.res.Shaped
  | .error _ => True
  | .needBoundary c => c.m ≤ 48 ∧ 2 ≤ c.off

theorem verdictOf_shaped {x : Except ErrKind Result} (hx : ShapedOk x) (h : Hdr) : (verdictOf h x).Shaped := by
  cases x with
  | error e => trivial
  | ok r => exact hx r rfl

theorem cbrRule_shaped {off pad m : Nat} {pf : Bool} (hm48 : m ≤ 48) (hoff : 2 ≤ off) (L : Nat) (lx : Bool) (h : Hdr) :
    (cbrRule L lx h pad off m pf).Shaped := by
  have hsplit := verdictOf_shaped (cbrSplit_shaped (pad := pad) (pf := pf) hm48 hoff L L) h
  unfold cbrRule
  split_ifs
  · exact hsplit
  · exact unresolvedResult_shaped hm48 hoff
  · exact ⟨hm48, hoff⟩
  · exact hsplit

theorem c3Rule_shaped (L : Nat) (lx : Bool) (B : Nat → Option Byte) (toc : Byte) : (c3Rule L lx B toc).Shaped := by
  by_cases hL : L < 2
  · rw [(c3_short hL).1]; trivial
  have hL1 : 1 < L := by omega
  cases hb : B 1 with
  | none => rw [(c3_unread hL1 hb).1]; trivial
  | some fc =>
    by_cases hm : LegalCount fc
    · rw [(c3_legal hL1 hb hm).1]
      cases hp : padRule L B (fcP fc) with
      | error e => trivial
      | ok x =>
        have hoff := le_of_padRule hp
        rw [code3Verdict]
        split_ifs
        · exact verdictOf_shaped (vbrRule_shaped hm.1 hm.2 hoff) _
        · exact cbrRule_shaped hm.2 hoff L lx _
    · rw [(c3_illegal hL1 hb hm).1]; trivial

theorem decodePacket_shaped (L : Nat) (lx : Bool) (B : Nat → Option Byte) : (decodePacket L lx B).Shaped := by
  obtain rfl | hL := Nat.eq_zero_or_pos L
  · rw [(decodePacket_empty B).1]; trivial
  cases hb : B 0 with
  | none => rw [(decodePacket_unread hL hb).1]; trivial
  | some toc =>
    rw [decodePacket_of_toc hL hb]
    split_ifs
    · exact verdictOf_shaped (c0Rule_shaped L B) _
    · exact verdictOf_shaped (c1Decide_shaped L _) _
    · exact verdictOf_shaped (c2Rule_shaped L B) _
    · exact c3Rule_shaped L lx B toc

/-! ### decode_packet (44_host_interface R259) -/

theorem shaped_of_returned {h : Hdr} {x : Except ErrKind Result} {p : Packet} (hx : ShapedOk x)
    (hp : returned h x = .packet p) : p.res.Shaped := by
  cases x with
  | error e => cases hp
  | ok r => cases hp; exact hx r rfl

theorem shaped_of_resumeRule {L T : Nat} {c : BoundaryCtx} {p : Packet} (hm48 : c.m ≤ 48) (hoff : 2 ≤ c.off)
    (hp : resumeRule L T c = .packet p) : p.res.Shaped := by
  unfold resumeRule at hp
  split_ifs at hp
  · cases hp; exact unresolvedResult_shaped hm48 hoff
  · exact shaped_of_returned (cbrSplit_shaped hm48 hoff L T) hp

theorem shaped_of_fwDecodePacket {strong : Bool} {B : Nat → Option Byte} {n : Nat} {p : Packet}
    (h : fwDecodePacket strong B n = .packet p) : p.res.Shaped := by
  have hv := decodePacket_shaped n false B
  unfold fwDecodePacket at h
  cases hd : decodePacket n false B with
  | done q => rw [hd] at h hv; cases h; exact hv
  | error e => rw [hd] at h; cases h
  | needBoundary c => rw [hd] at h hv; exact shaped_of_resumeRule hv.1 hv.2 h

/-! ## The scanner's cursor (44_host_interface R262) -/

section
variable {strong : Bool} {B : Nat → Option Byte} {L cur q : Nat} {p : Packet}

theorem nextCursor_of_total (h : p.res.total ≠ 0) : nextCursor strong B L cur p = cur + p.res.total :=
  if_pos (Nat.pos_of_ne_zero h)

/-- An unresolved packet: the probe's success, else the next byte. -/
theorem nextCursor_of_unresolved (h : p.res.total = 0) :
    nextCursor strong B L cur p = (probeFrom strong B L Config.scanProbeMax (probeStart cur p)).getD (cur + 1) := by
  rw [nextCursor, if_neg (by omega)]
  cases probeFrom strong B L Config.scanProbeMax (probeStart cur p) <;> rfl

/-- The probe begins past the cursor, because a packet has at least its TOC byte before the payload. -/
theorem lt_probeStart (hp : p.res.Shaped) : cur < probeStart cur p := by
  have hoff := hp.2.2
  unfold probeStart
  omega

theorem lt_nextCursor (hp : p.res.Shaped) : cur < nextCursor strong B L cur p := by
  by_cases h : p.res.total = 0
  · rw [nextCursor_of_unresolved h]
    cases hprobe : probeFrom strong B L Config.scanProbeMax (probeStart cur p) with
    | none => exact Nat.lt_succ_self cur
    | some q => exact (lt_probeStart hp).trans_le (probeFrom_ge _ _ _ _ _ _ hprobe)
  · rw [nextCursor_of_total h]; omega

end

/-! ### The operations of the scanner -/

section
variable {s : State} {a : Word} {L q left : Nat} {ops : List HostOp} {p : Packet} {e : ErrKind}

theorem scanNextOp_packet (h : s.fw.result = some (.packet p)) : scanNextOp a L s = scanFound a L p s := by
  rw [scanNextOp, h]

theorem scanNextOp_error (h : s.fw.result = some (.error e)) :
    scanNextOp a L s = (s.setCursor (s.fw.cursor + 1)).push [.scan a L] := by rw [scanNextOp, h]

theorem probeNextOp_packet (h : s.fw.result = some (.packet p)) : probeNextOp a L q left s = s.setCursor q := by
  rw [probeNextOp, h]

theorem probeNextOp_error (h : s.fw.result = some (.error e)) :
    probeNextOp a L q left s = s.push [.probe a L (q + 1) (left - 1)] := by rw [probeNextOp, h]

/-- Whatever follows, the packet is emitted with the offset it was found at. -/
theorem scanFound_emits : (scanFound a L p s).fw.found = some (p, s.fw.cursor) ∧
    (scanFound a L p s).fw.emitted = s.fw.emitted ++ [(p, s.fw.cursor)] := by
  unfold scanFound
  dsimp only
  split_ifs <;> exact ⟨rfl, rfl⟩

theorem scanFound_of_total (h : p.res.total ≠ 0) :
    (scanFound a L p s).fw.cursor = s.fw.cursor + p.res.total ∧ (scanFound a L p s).host = s.host := by
  rw [scanFound, if_pos (Nat.pos_of_ne_zero h)]; exact ⟨rfl, rfl⟩

theorem scanFound_of_unresolved (h : p.res.total = 0) : (scanFound a L p s).fw.cursor = s.fw.cursor ∧
    (scanFound a L p s).host = .probe a L (probeStart s.fw.cursor p) 1000 :: s.host := by
  rw [scanFound, if_neg (by omega)]; exact ⟨rfl, rfl⟩

end

/-- Settles O59: the probe begins past the cursor, so each way of moving it goes forward; the host's operations by their cases. -/
theorem scannerMovesForward : Obligations.ScannerMovesForward := by
  refine ⟨?_, ?_, ?_, ?_⟩
  · rintro strong B L cur est next p hp rfl rfl
    refine ⟨lt_nextCursor (shaped_of_fwDecodePacket hp), nextCursor_of_total, fun q r h hlow hhigh hL hq hfirst => ?_,
      fun h hnone => ?_⟩
    · rw [nextCursor_of_unresolved h]
      exact congrArg (Option.getD · (cur + 1)) (probeFrom_first strong B L 1000 _ q r hlow hhigh hL hq hfirst)
    · rw [nextCursor_of_unresolved h]
      exact congrArg (Option.getD · (cur + 1)) (probeFrom_none strong B L 1000 _ hnone)
  · intro s t a L q left ops p hstep hres
    refine ⟨fun hhost => ?_, fun hhost => ?_⟩
    · rw [step_host s _ _ hhost, hostStep, scanNextOp_packet (s := { s with host := ops }) hres] at hstep
      cases hstep
      obtain ⟨hfound, hemitted⟩ := scanFound_emits (s := { s with host := ops }) (a := a) (L := L) (p := p)
      exact ⟨hfound, hemitted, scanFound_of_total, scanFound_of_unresolved⟩
    · rw [step_host s _ _ hhost, hostStep, probeNextOp_packet (s := { s with host := ops }) hres] at hstep
      cases hstep
      exact ⟨rfl, rfl⟩
  · intro s a L q left ops e hres
    refine ⟨fun hhost => ?_, fun hhost => ?_⟩
    · rw [step_host s _ _ hhost, hostStep, scanNextOp_error (s := { s with host := ops }) hres]; rfl
    · rw [step_host s _ _ hhost, hostStep, probeNextOp_error (s := { s with host := ops }) hres]; rfl
  · intro s a L q left ops
    refine ⟨fun hhost => ⟨fun hlt => ?_, fun hle => ?_⟩, fun hhost => ⟨fun hleft hlt => ?_, fun hend => ?_⟩⟩
    · rw [step_host s _ _ hhost, hostStep, scanOp, if_pos hlt]; rfl
    · rw [step_host s _ _ hhost, hostStep, scanOp, if_neg (Nat.not_lt_of_le hle)]
    · rw [step_host s _ _ hhost, hostStep, probeOp, if_neg (by omega)]; rfl
    · rw [step_host s _ _ hhost, hostStep, probeOp, if_pos hend]; rfl

end Sys2Proof.Machine

namespace Sys2Proof.Machine

/-! ## Runs of the machine -/

/-- Finitely many steps lead from `s` to `t`; how many is no claim (log 3). -/
def Reaches : State → State → Prop := Relation.ReflTransGen fun s t => step s = .next t

theorem Reaches.head {s t u : State} (h : step s = .next t) (ht : Reaches t u) : Reaches s u := Relation.ReflTransGen.head h ht

theorem Reaches.trans {s t u : State} (h : Reaches s t) (ht : Reaches t u) : Reaches s u := Relation.ReflTransGen.trans h ht

theorem Reaches.run {s t : State} (h : Reaches s t) : ∃ k, Sys2Proof.core.run k s = .next t := by
  refine Relation.ReflTransGen.head_induction_on h ⟨0, rfl⟩ fun hstep _ ⟨k, hk⟩ => ?_
  exact ⟨k + 1, (run_succ k _ _ hstep).trans hk⟩

theorem reaches_of_run {k : Nat} : ∀ {s t : State}, Sys2Proof.core.run k s = .next t → Reaches s t := by
  induction k with
  | zero => intro s t h; cases h; exact .refl
  | succ k ih =>
    intro s t h
    cases hstep : step s with
    | next u => exact .head hstep (ih ((run_succ k s u hstep).symm.trans h))
    | fault r | refused r =>
      simp only [Host.Core.run, show Sys2Proof.core.step s = _ from hstep] at h
      cases h

/-- What every step keeps, a run keeps. -/
theorem Reaches.keeps {P : State → Prop} (hP : ∀ s t, P s → step s = .next t → P t) {s t : State} (h : Reaches s t) :
    P s → P t :=
  Relation.ReflTransGen.head_induction_on h id fun hstep _ ih hs => ih (hP _ _ hs hstep)

/-- Outside BUSY, with no host operation to come, nothing moves (70_reset_and_hazards R320; log 21). -/
theorem Reaches.eq_of_not_busy {s t : State} (h : Reaches s t) (hhost : s.host = []) (hbusy : s.busy = false) : t = s :=
  h.keeps (P := (· = s)) (fun u v hu hstep => by
    subst hu
    rw [step_engine u hhost, engineStep, fetch_of_not_busy hbusy] at hstep
    exact (Host.Outcome.next.inj hstep).symm) rfl

/-! ## The accesses of decode_packet (44_host_interface R258, R259) -/

theorem csrPort_read {offset : BitVec 9} (h : offset.toNat % 4 = 0) (s : State) :
    csrPort { write := false, offset := offset, width := .word, data := 0#32 } s =
      .next { s with rdata := s.csrRead offset.toNat } := by
  have hd : decode (.csr { write := false, offset := offset, width := .word, data := 0#32 })
      = .instr (.rdCsr (offset.extractLsb' 2 7)) [] := by
    simp [decode, decodeCsr, CsrAccess.supported, h]
  have ho : 4 * (offset.extractLsb' 2 7).toNat = offset.toNat := by
    have := offset.isLt
    simp only [BitVec.extractLsb'_toNat, Nat.shiftRight_eq_div_pow]
    omega
  rw [csrPort, hd]
  simp only [exec, execRdCsr, ho]

/-- A WR runs the row of its word, on the block's side alone. -/
theorem step_wr {o : BitVec 9} {d : Word} {i : Instr} {s t : State} (hd : decode (csrWriteOf o d) = .instr i [])
    (he : exec i s = .next t) (ops : List HostOp) (fw : Firmware) :
    step (s.withHostSide (wr o d :: ops) fw) = .next (t.withHostSide ops fw) := by
  rw [step_host _ (wr o d) ops rfl, wr, hostStep, csrPort, ← csrWriteOf, hd]
  exact exec_withHostSide i s t ops fw he

/-! ### POLL of STATUS -/

/-- The low two bits of STATUS are STATE (10_state R29). -/
theorem statusRead_and_three (s : State) : s.statusRead &&& 3#32 = BitVec.ofNat 32 s.visible.code := by
  have hcode := s.visible.code_lt
  refine BitVec.eq_of_toNat_eq ?_
  have hmod : (s.statusRead &&& 3#32).toNat = s.statusRead.toNat % 4 := Nat.and_two_pow_sub_one_eq_mod _ 2
  rw [hmod, toNat_statusRead, BitVec.toNat_ofNat]
  omega

/-- Bit 1 of STATUS is set in WAIT_BND and DONE. -/
theorem statusRead_and_two_iff (s : State) : s.statusRead &&& 2#32 = 2#32 ↔ s.visible = .waitBnd ∨ s.visible = .done := by
  rw [show 2#32 = 3#32 &&& 2#32 from rfl, ← BitVec.and_assoc, statusRead_and_three]
  cases s.visible <;> decide

theorem statusRead_and_three_iff (s : State) : s.statusRead &&& 3#32 = 3#32 ↔ s.visible = .done := by
  rw [statusRead_and_three]
  cases s.visible <;> decide

/-- The port has returned STATUS. -/
def State.readStatus (s : State) : State := { s with rdata := s.statusRead }

section
variable {s : State} {mask value : Word} (ops : List HostOp) (fw : Firmware)

theorem step_poll_hit (h : s.statusRead &&& mask = value) :
    step (s.withHostSide (.poll 0x004#9 mask value :: ops) fw) = .next (s.readStatus.withHostSide ops fw) := by
  rw [step_host _ _ ops rfl, hostStep, pollStep, csrPort_read rfl]
  exact congrArg Host.Outcome.next (if_pos h)

theorem step_poll_miss (h : s.statusRead &&& mask ≠ value) :
    step (s.withHostSide (.poll 0x004#9 mask value :: ops) fw) =
      .next (s.readStatus.withHostSide (.engine :: .poll 0x004#9 mask value :: ops) fw) := by
  rw [step_host _ _ ops rfl, hostStep, pollStep, csrPort_read rfl]
  exact congrArg Host.Outcome.next (if_neg h)

end

/-- The decode in progress, left to itself: STATUS has been read, and no host operation is to come. -/
def State.alone (s : State) : State := s.readStatus.withHostSide [] s.fw

/-- A poll that no BUSY state answers runs the decode as the engine alone would, one engine step between two reads: while it
is BUSY each read returns the same word (42_packet_fsm R182), and the last one sees its end. -/
theorem reaches_of_polling {mask value : Word} (hmiss : ∀ u : State, u.visible = .busy → u.statusRead &&& mask ≠ value)
    {s t : State} (h : Reaches s t) (hhit : t.statusRead &&& mask = value) (ops : List HostOp) (fw : Firmware) :
    s.host = [] → s.visible = .busy → s.rdata = s.statusRead →
      Reaches (s.withHostSide (.engine :: .poll 0x004#9 mask value :: ops) fw) (t.readStatus.withHostSide ops fw) := by
  refine Relation.ReflTransGen.head_induction_on h (fun _ hbusy => absurd hhit (hmiss t hbusy)) ?_
  intro s u hstep hrest ih hhost hbusy hread
  rw [step_engine s hhost] at hstep
  refine .head ((step_host _ .engine _ rfl).trans (engineStep_withHostSide s u _ fw hstep)) ?_
  have hhostU : u.host = [] := (engineStep_surroundings hstep).host.trans hhost
  by_cases hbusyU : u.visible = .busy
  · have hcsr : u.csr = s.csr := engineStep_csr_of_busy hstep hbusyU
    have hword : u.statusRead = s.statusRead := csrRead_congr hcsr (hbusyU.trans hbusy.symm) 0x004
    have hrdata : u.rdata = u.statusRead := by
      obtain ⟨-, rfl⟩ | ⟨-, hm⟩ := engineStep_moves hstep
      · exact hread
      · rw [hm.rdata, hread, hword]
    have hsame : u.readStatus = u := by rw [State.readStatus, ← hrdata]
    refine .head (step_poll_miss ops fw (hmiss u hbusyU)) ?_
    rw [hsame]
    exact ih hhostU hbusyU hrdata
  · have hquiet : u.busy = false := by rwa [← Bool.not_eq_true, busy_eq_true_iff]
    rw [Reaches.eq_of_not_busy hrest hhostU hquiet] at hhit ⊢
    exact .head (step_poll_hit ops fw hhit) .refl

/-- The poll that starts in BUSY. -/
theorem reaches_polled {mask value : Word} (hmiss : ∀ u : State, u.visible = .busy → u.statusRead &&& mask ≠ value)
    {s : State} {k : Nat} {v : Verdict} {c : Option BoundaryCtx} (hbusy : s.visible = .busy) (h : EndsWithin k v c s.alone)
    (hhit : ∀ t, Completes v s t → t.statusRead &&& mask = value) (hE : EngineInv s) (ops : List HostOp) (fw : Firmware) :
    ∃ t, Reaches (s.withHostSide (.poll 0x004#9 mask value :: ops) fw) (t.withHostSide ops fw) ∧ Completes v s t ∧
      BoundaryAfter c s t ∧ SameDescriptor s t ∧ t.mem = s.mem ∧ t.platform = s.platform ∧ EngineInv t := by
  obtain ⟨n, t, -, hrun, hv, hc, hd, -, hmem, -, -, -, hplat⟩ := h
  have hreach := reaches_of_run hrun
  have hEt : EngineInv t := hreach.keeps stepKeepsEngineInv (hE.congr rfl)
  have hloop := reaches_of_polling hmiss hreach (hhit t hv) ops fw rfl hbusy rfl
  exact ⟨t.readStatus, .head (step_poll_miss ops fw (hmiss s hbusy)) hloop, hv, hc, hd, hmem, hplat, hEt.congr rfl⟩

end Sys2Proof.Machine

namespace Sys2Proof.Machine

/-! ## What decode_packet returns, as the registers report it (44_host_interface R259) -/

/-- The registers report this return value: the error kind, or the record. -/
def Reports (s : State) : FwResult → Prop
  | .error e => s.csr.err = some e
  | .packet p => s.csr.err = none ∧ Holds p s

/-- The firmware has kept these words, the port has returned `rd`, and `ops` are to come. -/
def State.keeping (s : State) (rd : Word) (words : List Word) (ops : List HostOp) : State :=
  { s with host := ops, rdata := rd, fw := { s.fw with words := words } }

/-- The words that loads at these offsets keep. -/
def State.wordsAt (s : State) (offsets : List (BitVec 9)) : List Word := offsets.map fun o => s.csrRead o.toNat

theorem step_keeping (s : State) (rd : Word) (words : List Word) (op : HostOp) (ops : List HostOp) :
    step (s.keeping rd words (op :: ops)) = hostStep op (s.keeping rd words ops) := step_host _ op ops rfl

theorem reaches_loads (s : State) (ops : List HostOp) (offsets : List (BitVec 9)) (h : ∀ o ∈ offsets, o.toNat % 4 = 0) :
    ∀ rd words, ∃ rd', Reaches (s.keeping rd words (offsets.map .fwLoad ++ ops))
      (s.keeping rd' (words ++ s.wordsAt offsets) ops) := by
  induction offsets with
  | nil =>
    intro rd words
    rw [State.wordsAt, List.map_nil, List.map_nil, List.append_nil]
    exact ⟨rd, .refl⟩
  | cons o offsets ih =>
    intro rd words
    obtain ⟨rd', hrest⟩ := ih (fun o' ho' => h o' (.tail o ho')) (s.csrRead o.toNat) (words ++ [s.csrRead o.toNat])
    rw [List.append_assoc] at hrest
    exact ⟨rd', .head ((step_keeping ..).trans (fwLoadOp_word o _ (h o (List.mem_cons_self ..)))) hrest⟩

/-- The offset of `FRAME_SIZE[k]`. -/
def frameOffset (k : Nat) : BitVec 9 := BitVec.ofNat 9 (0x100 + 4 * k)

theorem toNat_frameOffset {k : Nat} (hk : k < 48) : (frameOffset k).toNat = 0x100 + 4 * k := Nat.mod_eq_of_lt (by omega)

/-- The offsets of the record's registers before FRAME_SIZE: HDR, PKT, PAYLOAD_OFFSET, PADDING_SIZE, TOTAL_SIZE. -/
def recordOffsets : List (BitVec 9) := [0x010#9, 0x014#9, 0x018#9, 0x01C#9, 0x020#9]

/-- The words of STATUS, of the record's registers, and of the first `n` FRAME_SIZE registers. -/
def State.recordWords (s : State) (n : Nat) : List Word :=
  s.statusRead :: (s.wordsAt recordOffsets ++ s.wordsAt ((List.range n).map frameOffset))

section
variable {p : Packet} {s : State} (h : Holds p s) (hp : p.res.Shaped)
include h hp

/-- The FRAME_SIZE words are the frames. -/
theorem toNat_frameWords : (s.wordsAt ((List.range p.res.frameCount).map frameOffset)).map BitVec.toNat = p.res.frames := by
  obtain ⟨-, -, -, -, -, -, -, -, hframes⟩ := h
  obtain ⟨hlen, h48, -⟩ := hp
  refine List.ext_getElem (by simp [State.wordsAt, hlen]) fun k hk hk' => ?_
  have hcount : k < p.res.frameCount := hlen ▸ hk'
  have hk48 : k < 48 := by omega
  simp only [State.wordsAt, List.getElem_map, List.getElem_range, toNat_frameOffset hk48, csrRead_frameSize s hk48]
  rw [toNat_setWidth_32 (by decide), hframes k hk48, if_pos hcount]
  exact (List.getElem_eq_getD 0).symm

/-- The record built from the words of its registers. -/
theorem recordOf_recordWords (fw : Firmware) : recordOf { fw with words := s.recordWords p.res.frameCount } = p := by
  have hframes := toNat_frameWords h hp
  obtain ⟨hhdr, hcount, hsd, hcbr, hpad, hoff, hpadding, htotal, -⟩ := h
  obtain ⟨hdr, res⟩ := p
  obtain ⟨count, frames, off, total, sd, cbr, padded, padding⟩ := res
  have hword1 : Firmware.word { fw with words := s.recordWords count } 1 = s.csr.hdr.word := rfl
  have hword2 : Firmware.word { fw with words := s.recordWords count } 2 = s.csr.pkt.word := rfl
  have hword3 : Firmware.word { fw with words := s.recordWords count } 3 = s.csr.payloadOffset.setWidth 32 := rfl
  have hword4 : Firmware.word { fw with words := s.recordWords count } 4 = s.csr.paddingSize := rfl
  have hword5 : Firmware.word { fw with words := s.recordWords count } 5 = s.csr.totalSize.setWidth 32 := rfl
  have hdrop : (s.recordWords count).drop 6 = s.wordsAt ((List.range count).map frameOffset) := rfl
  simp only [recordOf, hword1, hword2, hword3, hword4, hword5, hdrop, Hdr.ofWord_word, Pkt.ofWord_word, hframes,
    toNat_setWidth_32 (show 24 ≤ 32 by decide), hhdr, hcount, hsd, hcbr, hpad, hoff, hpadding, htotal]

end

/-! ### The operations on the kept words -/

section
variable {s : State} {rd : Word} {ops : List HostOp}

/-- STATUS reports an error: it is returned. -/
theorem step_fwReturn_error {e : ErrKind} (h : s.csr.err = some e) :
    step (s.keeping rd [s.statusRead] (.fwReturn :: ops)) = .next ((s.keeping rd [s.statusRead] ops).setFw
      { s.fw with words := [s.statusRead], result := some (.error e) }) := by
  have herr : statusErr ((s.keeping rd [s.statusRead] ops).fw.word 0) = some e := (statusErr_statusRead s).trans h
  rw [step_keeping, hostStep, fwReturnOp, herr]; rfl

/-- STATUS reports no error: the record is read. -/
theorem step_fwReturn_none (h : s.csr.err = none) : step (s.keeping rd [s.statusRead] (.fwReturn :: ops)) =
    .next (s.keeping rd [s.statusRead] (recordOffsets.map .fwLoad ++ .fwFrames :: ops)) := by
  have herr : statusErr ((s.keeping rd [s.statusRead] ops).fw.word 0) = none := (statusErr_statusRead s).trans h
  rw [step_keeping, hostStep, fwReturnOp, herr]; rfl

/-- As many FRAME_SIZE registers are read as PKT says. -/
theorem step_fwFrames {words : List Word} (h : words.getD 2 0#32 = s.csr.pkt.word) :
    step (s.keeping rd words (.fwFrames :: ops)) = .next (s.keeping rd words
      (((List.range s.csr.pkt.frameCount.toNat).map frameOffset).map .fwLoad ++ .fwRecord :: ops)) := by
  have hpkt : (s.keeping rd words ops).fw.word 2 = s.csr.pkt.word := h
  rw [step_keeping, hostStep, fwFramesOp, hpkt, Pkt.ofWord_word, List.map_map, State.push, List.append_assoc]; rfl

theorem step_fwRecord (words : List Word) : step (s.keeping rd words (.fwRecord :: ops)) =
    .next ((s.keeping rd words ops).setFw
      { s.fw with words := words, result := some (.packet (recordOf { s.fw with words := words })) }) := rfl

end

/-- From the read of STATUS on, decode_packet returns what the registers report. -/
theorem reaches_returned {s : State} {r : FwResult} (h : Reports s r) (hr : ∀ p, r = .packet p → p.res.Shaped)
    (ops : List HostOp) (rd : Word) : ∃ rd' words, Reaches (s.keeping rd [] (.fwLoad 0x004#9 :: .fwReturn :: ops))
      ((s.keeping rd' words ops).setFw { s.fw with words := words, result := some r }) := by
  obtain ⟨rd1, hstatus⟩ := reaches_loads s (.fwReturn :: ops) [0x004#9] (by decide) rd []
  cases r with
  | error e => exact ⟨rd1, [s.statusRead], hstatus.trans (.head (step_fwReturn_error h) .refl)⟩
  | packet p =>
    obtain ⟨hnone, hholds⟩ := h
    have hp := hr p rfl
    have hcount : s.csr.pkt.frameCount.toNat = p.res.frameCount := hholds.2.1
    have haligned : ∀ o ∈ (List.range s.csr.pkt.frameCount.toNat).map frameOffset, o.toNat % 4 = 0 := by
      intro o ho
      obtain ⟨k, hk, rfl⟩ := List.mem_map.mp ho
      rw [toNat_frameOffset ((List.mem_range.mp hk).trans_le (hcount ▸ hp.2.1))]
      omega
    obtain ⟨rd2, hrecord⟩ := reaches_loads s (.fwFrames :: ops) recordOffsets (by decide) rd1 [s.statusRead]
    obtain ⟨rd3, hframes⟩ := reaches_loads s (.fwRecord :: ops) _ haligned rd2 ([s.statusRead] ++ s.wordsAt recordOffsets)
    have hreturn := step_fwRecord (s := s) (rd := rd3) (ops := ops) (s.recordWords p.res.frameCount)
    rw [recordOf_recordWords hholds hp] at hreturn
    rw [hcount] at hframes
    refine ⟨rd3, s.recordWords p.res.frameCount, hstatus.trans (.head (step_fwReturn_none hnone) (hrecord.trans ?_))⟩
    refine .head (step_fwFrames rfl) ?_
    rw [hcount]
    exact hframes.trans (.head hreturn .refl)

end Sys2Proof.Machine

namespace Sys2Proof.Machine

/-! ## decode_packet up to its START (44_host_interface R259) -/

/-- The block once `IRQ_PEND` is cleared and the buffer of decode_packet(a, n) is described to it. -/
def State.described (s : State) (a : Word) (n : Nat) : State :=
  { s with csr := { s.csr with
    irqPend := false, bufBase := BitVec.ofNat 32 (a.toNat % 2 ^ s.platform.addrW)
    bufLen := (BitVec.ofNat 32 n).setWidth 24 } }

/-- The block after the START of decode_packet(a, n). -/
def State.started (s : State) (a : Word) (n : Nat) : State := startDecode ((s.described a n).writeCtrl false false)

/-- What decode_packet still has to do once its wait is over. -/
def fwTail (ops : List HostOp) : List HostOp := .fwLoad 0x004#9 :: .fwReturn :: ops

/-- The firmware's variables while decode_packet has kept no word. -/
def Firmware.cleared (fw : Firmware) : Firmware := { fw with words := [], result := none }

theorem reaches_started {s : State} {a : Word} {n : Nat} {ops : List HostOp} (hhost : s.host = .decodePacket a n :: ops)
    (hst : s.w.state = .sIdle ∨ s.w.state = .sDone) (hn : n < 2 ^ 24) :
    Reaches s ((s.started a n).withHostSide (.poll 0x004#9 2#32 2#32 :: .fwAnswer :: fwTail ops) s.fw.cleared) := by
  have hcall : step s = .next (s.withHostSide (fwDecodeOps a n ++ ops) s.fw.cleared) := by
    rw [step_host s _ ops hhost, hostStep, fwDecodePacketOp, if_pos hn]; rfl
  have hack := Laws.RoundTrip.cmdIrqAck rfl
  have hbase := Laws.RoundTrip.wrBufBase a rfl
  have hlen := Laws.RoundTrip.wrBufLen (BitVec.ofNat 32 n) rfl
  have hdescribed : Reaches s ((s.described a n).withHostSide
      (wr 0x000#9 1#32 :: .poll 0x004#9 2#32 2#32 :: .fwAnswer :: fwTail ops) s.fw.cleared) :=
    .head hcall (.head (step_wr hack rfl _ _) (.head (step_wr hbase rfl _ _) (.head (step_wr hlen rfl _ _) .refl)))
  have hstart : exec (.cmdStart false false false) (s.described a n) = .next (s.started a n) :=
    exec_cmdStart_accepted false false false hst
  exact hdescribed.trans (.head (step_wr (Laws.RoundTrip.cmdStart false false false rfl) hstart _ _) .refl)

/-- The base may be cut to `ADDR_W` bits. -/
theorem bufAddr_mod (p : Platform) (a : Word) (i : Nat) :
    bufAddr p (BitVec.ofNat 32 (a.toNat % 2 ^ p.addrW)) i = bufAddr p a i := by
  have hcut : a.toNat % 2 ^ p.addrW < 2 ^ 32 := (Nat.mod_le _ _).trans_lt a.isLt
  rw [bufAddr, bufAddr, BitVec.toNat_ofNat, Nat.mod_eq_of_lt hcut, Nat.mod_add_mod]

theorem fwByte_mod (s : State) (a : Word) : fwByte s (BitVec.ofNat 32 (a.toNat % 2 ^ s.platform.addrW)) = fwByte s a := by
  funext i
  rw [fwByte, fwByte, bufAddr_mod]

section
variable (s : State) (a : Word) {n : Nat}

theorem started_len (hn : n < 2 ^ 24) : (s.started a n).len = n := by
  have hlen : (s.started a n).len = ((BitVec.ofNat 32 n).setWidth 24).toNat := rfl
  rw [hlen, BitVec.toNat_setWidth, BitVec.toNat_ofNat]
  omega

/-- The decode reads the bytes that the firmware's own loads answer. -/
theorem started_B : (s.started a n).B = fwByte s a := by
  have hbase : (s.started a n).B =
      fwByte s (BitVec.ofNat 32 ((BitVec.ofNat 32 (a.toNat % 2 ^ s.platform.addrW)).toNat % 2 ^ s.platform.addrW)) := rfl
  rw [hbase, fwByte_mod, fwByte_mod]

end

/-! ## The registers' report of an outcome -/

/-- A decode that has ended in DONE: the registers report what decode_packet returns. -/
theorem reports_of_completes {v : Verdict} {s t : State} (hv : Completes v s t) (hdone : t.visible = .done) (strong : Bool)
    (B : Nat → Option Byte) (L : Nat) : Reports t (fwOutcome strong B L v) := by
  cases v with
  | done p =>
    obtain ⟨-, hholds, -, -, herr, -⟩ := hv
    exact ⟨herr, hholds⟩
  | error e =>
    obtain ⟨-, -, -, -, herr, -⟩ := hv
    exact herr
  | needBoundary c => exact absurd (hdone.symm.trans hv.1) (by decide)

theorem reports_commitUnresolved {s : State} (h : (unresolvedResult s.off s.pad s.m s.pf).Fits) :
    Reports (commitUnresolved s) (.packet { hdr := s.w.hdr, res := unresolvedResult s.off s.pad s.m s.pf }) :=
  ⟨rfl, holds_commit h s⟩

/-- A read of STATUS changes no report. -/
theorem reports_readStatus {s : State} {r : FwResult} (h : Reports s r) : Reports s.readStatus r := by
  cases r <;> exact h

theorem fwOutcome_verdictOf (strong : Bool) (B : Nat → Option Byte) (L : Nat) (h : Hdr) (x : Except ErrKind Result) :
    fwOutcome strong B L (verdictOf h x) = returned h x := by cases x <;> rfl

theorem visible_of_completes_verdictOf {h : Hdr} {x : Except ErrKind Result} {s t : State}
    (hv : Completes (verdictOf h x) s t) : t.visible = .done := by
  cases x <;> exact hv.1

theorem state_of_waitBnd {s : State} (h : s.visible = .waitBnd) : s.w.state = .sWaitBnd := by
  unfold State.visible at h
  cases hst : s.w.state with
  | sWaitBnd => rfl
  | _ => rw [hst] at h; cases h

theorem state_of_done {s : State} (h : s.visible = .done) : s.w.state = .sDone := by
  unfold State.visible at h
  cases hst : s.w.state with
  | sDone => rfl
  | _ => rw [hst] at h; cases h

/-! ## The boundary answer (43_boundary R226, R231) -/

theorem verdictOf_ne_needBoundary (h : Hdr) (x : Except ErrKind Result) (c : BoundaryCtx) :
    verdictOf h x ≠ .needBoundary c := by
  cases x <;> exact fun hx => by cases hx

/-- A code-3 packet that asks for a boundary has reached its boundary check. -/
theorem c3Range_of_needBoundary {L : Nat} {lx : Bool} {B : Nat → Option Byte} {toc : Byte} {c : BoundaryCtx}
    (h : c3Rule L lx B toc = .needBoundary c) : c3Range L lx B toc = some c := by
  by_cases hL : L < 2
  · rw [(c3_short hL).1] at h; cases h
  have hL1 : 1 < L := by omega
  cases hb : B 1 with
  | none => rw [(c3_unread hL1 hb).1] at h; cases h
  | some fc =>
    by_cases hm : LegalCount fc
    · obtain ⟨hrule, hrange⟩ := c3_legal (lx := lx) (toc := toc) hL1 hb hm
      rw [hrule] at h
      rw [hrange]
      cases hp : padRule L B (fcP fc) with
      | error e => rw [hp] at h; cases h
      | ok x =>
        rw [hp, code3Verdict] at h
        rw [code3Range]
        cases hv : fcV fc with
        | true => rw [hv] at h; exact absurd h (verdictOf_ne_needBoundary _ _ c)
        | false =>
          simp only [hv, Bool.false_eq_true, if_false, cbrRule] at h
          split_ifs at h with hx
          · exact absurd h (verdictOf_ne_needBoundary _ _ c)
          · rw [Bool.or_false, if_neg hx, Verdict.needBoundary.inj h]
          · exact absurd h (verdictOf_ne_needBoundary _ _ c)
    · rw [(c3_illegal hL1 hb hm).1] at h; cases h

/-- A decode that asks for a boundary has reached its boundary check (43_boundary R220). -/
theorem rangeReached_of_needBoundary {L : Nat} {lx : Bool} {B : Nat → Option Byte} {c : BoundaryCtx}
    (h : decodePacket L lx B = .needBoundary c) : rangeReached L lx B = some c := by
  obtain rfl | hL := Nat.eq_zero_or_pos L
  · rw [(decodePacket_empty B).1] at h; cases h
  cases hb : B 0 with
  | none => rw [(decodePacket_unread hL hb).1] at h; cases h
  | some toc =>
    rw [decodePacket_of_toc hL hb] at h
    split_ifs at h with h0 h1 h2
    · exact absurd h (verdictOf_ne_needBoundary _ _ c)
    · exact absurd h (verdictOf_ne_needBoundary _ _ c)
    · exact absurd h (verdictOf_ne_needBoundary _ _ c)
    · have h3 : tocCode toc = 3#2 := (((code_cases _).resolve_left h0).resolve_left h1).resolve_left h2
      rw [rangeReached_eq hb, if_pos h3]
      exact c3Range_of_needBoundary h

/-- The search answers no more than the upper end of its range. -/
theorem search_le (strong : Bool) (B : Nat → Option Byte) (L lo hi : Nat) (toc fc : Byte) :
    search strong B L lo hi toc fc ≤ hi := by
  rw [search]
  obtain ⟨hzero, -⟩ | ⟨r, hr, hlow, hhigh, -⟩ := searchFrom_cases B L toc fc (fun c => !strong || decodesAt B L c)
    (hi + 1 - lo) lo <;> omega

/-- The firmware's search is the one of the pure routine, where the range registers hold the range. -/
theorem fwSearchValue_eq {s t : State} {c : BoundaryCtx} {B : Nat → Option Byte} (hc : BoundaryAfter (some c) s t)
    (hB : fwByte t t.csr.bufBase = B) : fwSearchValue t = search t.platform.strongSearch B t.csr.bufLen.toNat
      (rangeMin c.off c.pad c.m) (rangeMax c.off c.pad c.m) c.hdr.toc c.hdr.fc := by
  obtain ⟨hmin, hmax, hsig, -⟩ := hc
  have htoc : (c.hdr.fc ++ c.hdr.toc).extractLsb' 0 8 = c.hdr.toc := BitVec.extractLsb'_append_eq_right
  have hfc : (c.hdr.fc ++ c.hdr.toc).extractLsb' 8 8 = c.hdr.fc := BitVec.extractLsb'_append_eq_left
  rw [fwSearchValue, hB, hmin, hmax, hsig, htoc, hfc]

/-- The search's value fits `BND_TOTAL`. -/
theorem toNat_fwSearchValue (t : State) : (BitVec.ofNat 32 (fwSearchValue t)).toNat = fwSearchValue t :=
  Nat.mod_eq_of_lt ((search_le _ _ _ _ _ _ _).trans_lt t.csr.bndMax.isLt)

/-- The firmware has written its answer `T`. -/
def State.withTotal (s : State) (T : Word) : State := { s with csr := { s.csr with bndTotal := T } }

/-- The block after the firmware's answer `T` and RESUME. -/
def State.answered (s : State) (T : Word) : State := resume ((s.withTotal T).writeCtrl false false)

/-- An answer other than 0 is taken to the split. -/
def State.splitting (s : State) (T : Word) : State :=
  { (s.withTotal T).writeCtrl false false with w := { s.w with t := T, state := .sCfin } }

section
variable {t : State} (ops : List HostOp) (fw : Firmware)

/-- Out of WAIT_BND there is nothing to answer. -/
theorem step_fwAnswer_elsewhere (h : t.visible ≠ .waitBnd) :
    step (t.withHostSide (.fwAnswer :: ops) fw) = .next (t.withHostSide ops fw) := by
  rw [step_host _ .fwAnswer ops rfl]
  exact congrArg Host.Outcome.next (if_neg h)

/-- In WAIT_BND the firmware searches, writes what it found to `BND_TOTAL`, and resumes. -/
theorem reaches_answered (hst : t.w.state = .sWaitBnd) : Reaches (t.withHostSide (.fwAnswer :: ops) fw)
    ((t.answered (BitVec.ofNat 32 (fwSearchValue t))).withHostSide (.poll 0x004#9 3#32 3#32 :: ops) fw) := by
  have hvis : t.visible = .waitBnd := by rw [State.visible, hst]; rfl
  have hanswer : step (t.withHostSide (.fwAnswer :: ops) fw) =
      .next (t.withHostSide (.fwSearch :: wr 0x000#9 2#32 :: .poll 0x004#9 3#32 3#32 :: ops) fw) := by
    rw [step_host _ .fwAnswer ops rfl]
    exact congrArg Host.Outcome.next (if_pos hvis)
  have htotal : step (t.withHostSide
        (wr 0x030#9 (BitVec.ofNat 32 (fwSearchValue t)) :: wr 0x000#9 2#32 :: .poll 0x004#9 3#32 3#32 :: ops) fw) =
      .next ((t.withTotal (BitVec.ofNat 32 (fwSearchValue t))).withHostSide
        (wr 0x000#9 2#32 :: .poll 0x004#9 3#32 3#32 :: ops) fw) :=
    step_wr (Laws.RoundTrip.wrBndTotal _ rfl) rfl _ _
  have hresume : exec (.cmdResume false false) (t.withTotal (BitVec.ofNat 32 (fwSearchValue t))) =
      .next (t.answered (BitVec.ofNat 32 (fwSearchValue t))) := exec_cmdResume_waiting _ _ hst
  exact .head hanswer (.head (step_host _ .fwSearch _ rfl)
    (.head htotal (.head (step_wr (Laws.RoundTrip.cmdResume false false rfl) hresume _ _) .refl)))

/-- After the answer `T` the decode ends as the pure routine says (43_boundary R226). -/
theorem reaches_resumed (hE : EngineInv t) (hst : t.w.state = .sWaitBnd) (T : Word) :
    ∃ u, Reaches ((t.answered T).withHostSide (.poll 0x004#9 3#32 3#32 :: ops) fw) (u.withHostSide ops fw) ∧
      u.visible = .done ∧ Reports u (resumeRule t.len T.toNat t.boundaryCtx) ∧ u.mem = t.mem ∧
      u.platform = t.platform := by
  obtain ⟨h3, hv, -⟩ := hE.at_sWaitBnd hst
  have hfits := (unresolvedResult_lawful h3 hv).fits t.len_lt
  by_cases hT : T = 0#32
  · have hdone : t.answered T = commitUnresolved _ := resume_of_zero hT
    have hvis : (t.answered T).visible = .done := by rw [hdone]; rfl
    have hhit := (statusRead_and_three_iff (t.answered T)).mpr hvis
    refine ⟨(t.answered T).readStatus, .head (step_poll_hit ops fw hhit) .refl, hvis, ?_, by rw [hdone]; rfl,
      by rw [hdone]; rfl⟩
    have hT0 : T.toNat = 0 := congrArg BitVec.toNat hT
    rw [resumeRule, if_pos hT0, hdone]
    exact reports_readStatus (reports_commitUnresolved hfits)
  · have hT0 : T.toNat ≠ 0 := fun h => hT (BitVec.eq_of_toNat_eq h)
    have hsplit : t.answered T = t.splitting T := resume_of_ne_zero hT
    have hEA : EngineInv (t.splitting T) := hsplit ▸ engineInv_resume (h3.congr rfl) hv
    have hend := ends_sCfin (s := (t.splitting T).alone) (hEA.congr rfl) rfl rfl
    rw [hsplit]
    obtain ⟨u, hreach, hcomp, -, -, hmem, hplat, -⟩ := reaches_polled
      (fun w hw h => absurd (hw.symm.trans ((statusRead_and_three_iff w).mp h)) (by decide)) rfl hend
      (fun w hw => (statusRead_and_three_iff w).mpr (visible_of_completes_verdictOf hw)) hEA ops fw
    have hdone := visible_of_completes_verdictOf hcomp
    refine ⟨u, hreach, hdone, ?_, hmem, hplat⟩
    rw [resumeRule, if_neg hT0, ← fwOutcome_verdictOf true (fun _ => none) 0]
    exact reports_of_completes hcomp hdone _ _ _

end

/-- The decode that decode_packet started has ended or waits; the firmware's answer, where it waits, leaves the registers
reporting what the pure routine returns. -/
theorem reaches_reported {s t : State} {B : Nat → Option Byte} {n : Nat} (hv : Completes (decodePacket n false B) s t)
    (hc : BoundaryAfter (rangeReached n false B) s t) (hE : EngineInv t) (hB : fwByte t t.csr.bufBase = B)
    (hbuf : t.csr.bufLen.toNat = n) (hlen : s.len = n) (ops : List HostOp) (fw : Firmware) :
    ∃ u, Reaches (t.withHostSide (.fwAnswer :: ops) fw) (u.withHostSide ops fw) ∧ u.visible = .done ∧
      Reports u (fwDecodePacket t.platform.strongSearch B n) ∧ u.mem = t.mem ∧ u.platform = t.platform := by
  unfold fwDecodePacket
  obtain hdone | hwait := hv.visible
  · exact ⟨t, .head (step_fwAnswer_elsewhere ops fw (by rw [hdone]; decide)) .refl, hdone,
      reports_of_completes hv hdone _ _ _, rfl, rfl⟩
  · cases hd : decodePacket n false B with
    | done p => rw [hd] at hv; exact absurd (hwait.symm.trans hv.1) (by decide)
    | error e => rw [hd] at hv; exact absurd (hwait.symm.trans hv.1) (by decide)
    | needBoundary c =>
      rw [hd] at hv
      rw [rangeReached_of_needBoundary hd] at hc
      obtain ⟨-, -, -, -, -, -, hhdr, hoff, hpad, hm, hpf, hlenT⟩ := hv
      have hctx : t.boundaryCtx = c := by rw [State.boundaryCtx, hhdr, hoff, hpad, hm, hpf]
      have hL : t.len = n := by rw [State.len, hlenT, ← hlen, State.len]
      have hst := state_of_waitBnd hwait
      obtain ⟨u, hreach, hdone, hreports, hframe⟩ := reaches_resumed ops fw hE hst (BitVec.ofNat 32 (fwSearchValue t))
      rw [toNat_fwSearchValue, fwSearchValue_eq hc hB, hctx, hL, hbuf] at hreports
      exact ⟨u, (reaches_answered ops fw hst).trans hreach, hdone, hreports, hframe⟩

/-! ## The obligation -/

/-- decode_packet of fewer than 2^24 bytes, up to the read of STATUS: the block is in DONE and reports the return value. -/
theorem reaches_decoded {s : State} {a : Word} {n : Nat} {ops : List HostOp} (hhost : s.host = .decodePacket a n :: ops)
    (hst : s.w.state = .sIdle ∨ s.w.state = .sDone) (hn : n < 2 ^ 24) :
    ∃ u, Reaches s (u.withHostSide (fwTail ops) s.fw.cleared) ∧ u.visible = .done ∧
      Reports u (fwDecodePacket s.platform.strongSearch (fwByte s a) n) ∧ u.mem = s.mem ∧ u.platform = s.platform := by
  have hlen := started_len s a hn
  have hB := started_B s a (n := n)
  have hend := ends_sToc (s := (s.started a n).alone) rfl rfl
  obtain ⟨t, hreach, hv, hc, ⟨-, -, hbase, hbuf⟩, hmem, hplat, hE⟩ := reaches_polled
    (fun u hu h => by obtain h | h := (statusRead_and_two_iff u).mp h <;> rw [hu] at h <;> cases h) rfl hend
    (fun u hu => (statusRead_and_two_iff u).mpr hu.visible.symm) trivial (.fwAnswer :: fwTail ops) s.fw.cleared
  have hv' : Completes (decodePacket (s.started a n).len false (s.started a n).B) (s.started a n) t := hv
  have hc' : BoundaryAfter (rangeReached (s.started a n).len false (s.started a n).B) (s.started a n) t := hc
  rw [hlen, hB] at hv' hc'
  have hloads : fwByte t t.csr.bufBase = fwByte s a := by
    rw [hbase, ← fwByte_mod s a]
    funext i
    rw [fwByte, hmem, hplat]; rfl
  obtain ⟨u, hreach', hdone, hreports, hmem', hplat'⟩ := reaches_reported hv' hc' hE hloads
    ((congrArg BitVec.toNat hbuf).trans hlen) hlen (fwTail ops) s.fw.cleared
  rw [hplat] at hreports
  exact ⟨u, (reaches_started hhost hst hn).trans (hreach.trans hreach'), hdone, hreports, hmem'.trans hmem,
    hplat'.trans hplat⟩

/-- Settles O60: a short call runs the block, whose registers report the outcome; a long one is answered by the software. -/
theorem decodePacketRoutineReturns : Obligations.DecodePacketRoutineReturns := by
  intro s a n ops hhost hst
  by_cases hn : n < 2 ^ 24
  · obtain ⟨u, hreach, hdone, hreports, hmem, hplat⟩ := reaches_decoded hhost hst hn
    obtain ⟨rd, words, hreturn⟩ := reaches_returned (s := u.withHostSide [] s.fw.cleared) hreports
      (fun _ hp => shaped_of_fwDecodePacket hp) ops u.rdata
    obtain ⟨k, hrun⟩ := (hreach.trans hreturn).run
    exact ⟨k, _, hrun, rfl, rfl, .inr (state_of_done hdone), fun _ => hdone, fun x => congrArg (Memory.read · x) hmem,
      hplat⟩
  · have hcall : step s = .next (({ s with host := ops } : State).setFw { s.fw with
        words := [], result := some (fwDecodePacket s.platform.strongSearch (fwByte s a) n) }) := by
      rw [step_host s _ ops hhost, hostStep, fwDecodePacketOp, if_neg hn]; rfl
    exact ⟨1, _, (run_succ 0 s _ hcall).trans rfl, rfl, rfl, hst, fun h => absurd h hn, fun _ => rfl, rfl⟩

end Sys2Proof.Machine

namespace Sys2Proof.Machine

/-! ## `error(E)` as the host reads it (60_exceptions R288) -/

theorem toNat_statusRead_raiseError (e : ErrKind) (s : State) : (raiseError e s).statusRead.toNat =
    3 + 16 * s.csr.resultValid.toNat + 32 * s.csr.unresolved.toNat + 256 * e.code + 65536 :=
  toNat_statusRead (raiseError e s)

/-- Of the read map an error completion changes STATUS alone. -/
theorem csrRead_raiseError (e : ErrKind) (s : State) {o : Nat} (ho : o ≠ 0x004) :
    (raiseError e s).csrRead o = s.csrRead o := by
  simp only [State.csrRead, if_neg ho]
  rfl

/-! ## A byte that is missing (60_exceptions R282, R285, R287) -/

section
variable {s : State} {i : Nat} {site : Byte → Fetch} (hf : fetch s = fetchByte s i site)
include hf

theorem engineStep_of_pastEnd (hi : s.len ≤ i) : engineStep s = .next (raiseError .insufficientData s) :=
  engineStep_of_error (hf.trans (if_pos hi))

theorem engineStep_of_unread (hi : i < s.len) (hb : s.B i = none) : engineStep s = .next (raiseError .busError s) :=
  engineStep_of_error (by simp only [hf, fetchByte, if_neg (Nat.not_le_of_lt hi), hb])

end

/-! ## An access at the CSR port, by its shape (20_memory R77) -/

theorem supported_iff (a : CsrAccess) : a.supported = true ↔ a.width = .word ∧ a.offset.toNat % 4 = 0 := by
  simp [CsrAccess.supported]

/-- Nothing stands behind the row of an access. -/
theorem rest_of_decode_csr {a : CsrAccess} {i : Instr} {rest : List Byte} (h : decode (.csr a) = .instr i rest) :
    rest = [] := by
  simp only [decode, decodeCsr, decodeCsrWrite] at h
  split_ifs at h <;> cases h <;> rfl

theorem csrPort_of_unsupported {a : CsrAccess} (h : a.supported = false) (s : State) :
    csrPort a s = .fault .unsupportedCsrAccess := by
  have hd : decode (.csr a) = .reject .unsupportedCsrAccess := by simp [decode, decodeCsr, h]
  rw [csrPort, hd]

theorem csrPort_of_supported {a : CsrAccess} (h : a.supported = true) (s : State) : ∃ t, csrPort a s = .next t := by
  unfold csrPort
  split
  next i rest hd => exact exec_total i s
  next => exact ⟨s, rfl⟩
  next => exact ⟨s, rfl⟩
  next hd =>
    simp only [decode, decodeCsr, h, if_true, decodeCsrWrite] at hd
    split_ifs at hd <;> cases hd

/-! ## One host operation by its effect -/

/-- What the host operation `op` does in `s`: an access at the CSR port with the host agent's own bookkeeping after it, a
store, a reset, an engine step, or bookkeeping alone. -/
inductive HostEffect (s : State) (op : HostOp) : Out → Prop where
  | access {a : CsrAccess} {f : State → State} (ha : accessOf s.platform op = some a) (hf : ∀ u, OnlyFirmware u (f u)) :
      HostEffect s op (andThen (csrPort a s) fun u => .next (f u))
  | store {a : Word} {b : Byte} (h : op = .store a b) : HostEffect s op (bufferStore a b s)
  | reset (h : op = .reset) : HostEffect s op (.next (resetBlock s))
  | engine (h : op = .engine) : HostEffect s op (engineStep s)
  | bookkeeping {t : State} (ha : accessOf s.platform op = none) (hne : ∀ a b, op ≠ .store a b) (h : OnlyFirmware s t) :
      HostEffect s op (.next t)

/-- An access with nothing after it. -/
theorem HostEffect.port {s : State} {op : HostOp} {a : CsrAccess} (ha : accessOf s.platform op = some a) :
    HostEffect s op (csrPort a s) := by
  have h := HostEffect.access ha (f := id) onlyFirmware_refl
  cases hx : csrPort a s <;> rw [hx] at h <;> exact h

theorem busAccess_effect {s : State} {op : HostOp} {write : Bool} {addr : Word} {width : Width} {data : Word}
    (ha : accessOf s.platform op = (windowOffset s.platform addr).map fun offset =>
      { write := write, offset := offset, width := width, data := data })
    (hne : ∀ a b, op ≠ .store a b) : HostEffect s op (busAccess write addr width data s) := by
  unfold busAccess
  split
  next offset ho => exact .port (by rw [ha, ho]; rfl)
  next ho =>
    refine .bookkeeping (by rw [ha, ho]; rfl) hne ?_
    split <;> exact onlyFirmware_refl s

theorem hostStep_effect (op : HostOp) (s : State) : HostEffect s op (hostStep op s) := by
  cases op with
  | csr a => exact .port rfl
  | store a b => exact .store rfl
  | busWrite addr width data => exact busAccess_effect rfl nofun
  | busRead addr width => exact busAccess_effect rfl nofun
  | reset => exact .reset rfl
  | engine => exact .engine rfl
  | poll offset mask value => exact .access rfl fun u => by split <;> exact onlyFirmware_refl u
  | fwLoad offset =>
    exact .access (f := fun u => u.setFw { u.fw with words := u.fw.words ++ [u.rdata] }) rfl fun u => onlyFirmware_refl u
  | waitIrq => exact .bookkeeping rfl nofun (by split <;> exact onlyFirmware_refl s)
  | fwSearch | sweep => exact .bookkeeping rfl nofun (onlyFirmware_refl s)
  | decodePacket a n => exact .bookkeeping rfl nofun (fwDecodePacketOp_frame a n s)
  | fwAnswer => exact .bookkeeping rfl nofun (fwAnswerOp_frame s)
  | fwReturn => exact .bookkeeping rfl nofun (fwReturnOp_frame s)
  | fwFrames => exact .bookkeeping rfl nofun (fwFramesOp_frame s)
  | fwRecord => exact .bookkeeping rfl nofun (fwRecordOp_frame s)
  | scanStream a L cur => exact .bookkeeping rfl nofun (scanStreamOp_frame a L cur s)
  | scan a L => exact .bookkeeping rfl nofun (scanOp_frame a L s)
  | scanNext a L => exact .bookkeeping rfl nofun (scanNextOp_frame a L s)
  | probe a L q left => exact .bookkeeping rfl nofun (probeOp_frame a L q left s)
  | probeNext a L q left => exact .bookkeeping rfl nofun (probeNextOp_frame a L q left s)
  | sweepNext a L => exact .bookkeeping rfl nofun (sweepNextOp_frame a L s)

/-! ## How a host operation ends (60_exceptions R301) -/

/-- The operation stores into the running decode's buffer while BUSY (20_memory R83). -/
def Races (s : State) (op : HostOp) : Prop := ∃ a b, op = .store a b ∧ s.visible = .busy ∧ s.inBuffer a = true

/-- The operation makes a CSR access that is not an aligned 32-bit one (20_memory R77). -/
def AccessesUnsupported (p : Platform) (op : HostOp) : Prop :=
  ∃ a, accessOf p op = some a ∧ ¬ (a.width = .word ∧ a.offset.toNat % 4 = 0)

/-- The three endings of an operation: it goes on, or stops for the one fault whose condition it meets. -/
inductive HostEnding (s : State) (op : HostOp) : Out → Prop where
  | next {t : State} (hrace : ¬ Races s op) (haccess : ¬ AccessesUnsupported s.platform op) : HostEnding s op (.next t)
  | race (hrace : Races s op) (haccess : ¬ AccessesUnsupported s.platform op) : HostEnding s op (.fault .bufferRace)
  | unsupported (hrace : ¬ Races s op) (haccess : AccessesUnsupported s.platform op) :
      HostEnding s op (.fault .unsupportedCsrAccess)

theorem not_races_of_not_store {s : State} {op : HostOp} (h : ∀ a b, op ≠ .store a b) : ¬ Races s op :=
  fun ⟨a, b, hop, _⟩ => h a b hop

theorem not_accessesUnsupported_of_none {p : Platform} {op : HostOp} (h : accessOf p op = none) :
    ¬ AccessesUnsupported p op := fun ⟨_, ha, _⟩ => nomatch h.symm.trans ha

theorem accessesUnsupported_iff {p : Platform} {op : HostOp} {a : CsrAccess} (ha : accessOf p op = some a) :
    AccessesUnsupported p op ↔ a.supported = false := by
  rw [AccessesUnsupported, ← Bool.not_eq_true, supported_iff, ha]
  exact ⟨fun ⟨_, heq, h⟩ => Option.some.inj heq ▸ h, fun h => ⟨a, rfl, h⟩⟩

theorem hostStep_ending (op : HostOp) (s : State) : HostEnding s op (hostStep op s) := by
  have heffect := hostStep_effect op s
  generalize hostStep op s = x at heffect ⊢
  cases heffect with
  | @access a f ha hf =>
    have hrace : ¬ Races s op := not_races_of_not_store fun addr b hop => by rw [hop] at ha; cases ha
    cases hsupp : a.supported with
    | false =>
      rw [csrPort_of_unsupported hsupp]
      exact .unsupported hrace ((accessesUnsupported_iff ha).mpr hsupp)
    | true =>
      obtain ⟨t, ht⟩ := csrPort_of_supported hsupp s
      rw [ht]
      exact .next hrace fun h => nomatch hsupp.symm.trans ((accessesUnsupported_iff ha).mp h)
  | @store a b h =>
    subst h
    have haccess : ¬ AccessesUnsupported s.platform (.store a b) := not_accessesUnsupported_of_none rfl
    by_cases hrace : s.visible = .busy ∧ s.inBuffer a = true
    · rw [bufferStore_race b hrace.1 hrace.2]
      exact .race ⟨a, b, rfl, hrace⟩ haccess
    · rw [bufferStore_of_not_race b hrace]
      refine .next ?_ haccess
      rintro ⟨_, _, ⟨⟩, h⟩
      exact hrace h
  | reset h => subst h; exact .next (not_races_of_not_store nofun) (not_accessesUnsupported_of_none rfl)
  | engine h =>
    subst h
    obtain ⟨t, ht⟩ := engineStep_total s
    rw [ht]
    exact .next (not_races_of_not_store nofun) (not_accessesUnsupported_of_none rfl)
  | bookkeeping ha hne h => exact .next (not_races_of_not_store hne) (not_accessesUnsupported_of_none ha)

section
variable {s : State} {op : HostOp} {ops : List HostOp} (h : s.host = op :: ops)
include h

theorem races_next_iff :
    (∃ a b ops, s.host = .store a b :: ops ∧ s.visible = .busy ∧ s.inBuffer a = true) ↔ Races s op := by
  simp [h, Races]

theorem accessesUnsupported_next_iff :
    (∃ op ops a, s.host = op :: ops ∧ accessOf s.platform op = some a ∧ ¬ (a.width = .word ∧ a.offset.toNat % 4 = 0)) ↔
      AccessesUnsupported s.platform op := by
  simp [h, AccessesUnsupported]

end

/-! ## `IRQ_PEND` and the visible state (60_exceptions R290) -/

/-- `t` shows the end of a decode or its boundary request, with the interrupt raised. -/
def Stopped (t : State) : Prop := (t.visible = .done ∨ t.visible = .waitBnd) ∧ t.csr.irqPend = true

theorem stopped_raiseError (e : ErrKind) (s : State) : Stopped (raiseError e s) := ⟨.inl rfl, rfl⟩

theorem stopped_commit (r : Result) (s : State) : Stopped (commit r s) := ⟨.inl rfl, rfl⟩

theorem stopped_finish (x : Except ErrKind Result) (s : State) : Stopped (finish x s) := by
  obtain ⟨e, -, h⟩ | ⟨r, -, h⟩ := finish_cases x s <;> rw [h]
  · exact stopped_raiseError e s
  · exact stopped_commit r s

theorem stopped_finishPlain (x : Except ErrKind Result) (s : State) : Stopped (finishPlain x s) := by
  obtain ⟨e, -, h⟩ | ⟨r, -, h⟩ := finishPlain_cases x s <;> rw [h]
  · exact stopped_raiseError e s
  · exact stopped_commit r _

theorem stopped_vbrLast (s : State) : Stopped (vbrLast s) := by
  obtain ⟨-, h⟩ | ⟨-, -, h⟩ := vbrLast_cases s <;> rw [h]
  · exact stopped_raiseError _ s
  · exact stopped_commit _ _

theorem stateOfCode_visible (code : BitVec 2) : (stateOfCode code).visible = .busy := by
  unfold stateOfCode
  split_ifs <;> rfl

theorem afterPadding_visible (s : State) : (afterPadding s).visible = .busy := by
  obtain ⟨-, -, h⟩ | ⟨-, -, h⟩ | ⟨-, h⟩ := afterPadding_cases s <;> rw [h] <;> rfl

theorem c3Header_visible (fc : Byte) (s : State) : (c3Header fc s).visible = .busy := by
  obtain ⟨-, h⟩ | ⟨-, h⟩ := c3Header_cases fc s <;> rw [h]
  · rfl
  · exact afterPadding_visible _

theorem flReturn_visible {s : State} (hs : s.visible = .busy) (size n : Nat) : (flReturn size n s).visible = .busy := by
  by_cases hst : s.w.state = .sVlen
  · obtain ⟨k, st, hcase, h⟩ := vlenStore_cases size n (s.latchFl size n)
    rw [flReturn, if_pos hst, h]
    obtain ⟨-, -, rfl⟩ | ⟨-, -, rfl⟩ := hcase
    · exact hs
    · rfl
  · rw [flReturn_of_ne hst]
    exact hs

theorem c2First_busy_or_stopped (s : State) : (c2First s).visible = .busy ∨ Stopped (c2First s) := by
  obtain ⟨-, h⟩ | ⟨-, h⟩ | ⟨size, n, -, h⟩ := c2First_cases s <;> rw [h]
  · exact .inr (stopped_raiseError _ s)
  · exact .inr (stopped_raiseError _ s)
  · exact .inl rfl

theorem cbrDispatch_busy_or_stopped (s : State) : (cbrDispatch s).visible = .busy ∨ Stopped (cbrDispatch s) := by
  obtain ⟨-, h⟩ | ⟨-, -, h⟩ | ⟨-, -, h⟩ | ⟨-, -, -, h⟩ := cbrDispatch_cases s <;> rw [h]
  · exact .inl rfl
  · exact .inr (stopped_commit _ _)
  · exact .inr ⟨.inr rfl, rfl⟩
  · exact .inr (stopped_finish _ _)

/-- A row of the bitstream goes on in BUSY, or stops the decode with the interrupt. -/
theorem exec_busy_or_stopped {i : Instr} {s t : State} (hi : i.isCommand = false) (hs : s.visible = .busy)
    (h : exec i s = .next t) : t.visible = .busy ∨ Stopped t := by
  cases i <;> cases h
  case tocSplit => exact .inl (stateOfCode_visible _)
  case cfgLut | padCont => exact .inl hs
  case pktC3M0 | pktC3Mbig49 | pktC3Mbig50to51 | pktC3Mbig52to55 | pktC3Mbig56to63 => exact .inr (stopped_raiseError _ _)
  case pktC0 | pktC1 => exact .inr (stopped_finishPlain _ _)
  case pktC2 =>
    split_ifs
    · exact .inr (stopped_finishPlain _ _)
    · exact c2First_busy_or_stopped s
  case pktC3Vbr =>
    split_ifs
    · exact .inr (stopped_vbrLast s)
    · exact .inl (c3Header_visible _ s)
  case pktC3Cbr =>
    split_ifs
    · exact cbrDispatch_busy_or_stopped s
    · exact .inr (stopped_finish _ s)
    · exact .inl (c3Header_visible _ s)
  case flZero | fl2b | fl1b => exact .inl (flReturn_visible hs _ _)
  case padTerm => exact .inl (afterPadding_visible _)
  all_goals cases hi

theorem engineStep_busy_or_stopped {s t : State} (hs : s.visible = .busy) (h : engineStep s = .next t) :
    t.visible = .busy ∨ Stopped t := by
  have hf := elementFetch_of_busy ((busy_eq_true_iff s).mpr hs)
  generalize hx : fetch s = x at hf
  cases hf with
  | error e => rw [engineStep_of_error hx] at h; cases h; exact .inr (stopped_raiseError e s)
  | row hi => rw [engineStep_of_run hx] at h; exact exec_busy_or_stopped hi hs h
  | toc b => rw [engineStep, hx] at h; cases h; exact .inl (stateOfCode_visible _)

/-- Neither DONE nor WAIT_BND is entered. -/
def EntersNoStop (s t : State) : Prop := t.visible = s.visible ∨ t.visible = .idle ∨ t.visible = .busy

theorem EntersNoStop.not_stop {s t : State} (h : EntersNoStop s t) (hne : s.visible ≠ t.visible) :
    ¬ (t.visible = .done ∨ t.visible = .waitBnd) := by
  obtain h | h | h := h
  · exact absurd h.symm hne
  · simp [h]
  · simp [h]

/-- `IRQ_PEND` stays and no stop is entered, or it is raised on the way from BUSY or WAIT_BND to a stop. -/
inductive IrqMove (s t : State) : Prop where
  | keep (hirq : t.csr.irqPend = s.csr.irqPend) (hvis : EntersNoStop s t) : IrqMove s t
  | raise (hirq : t.csr.irqPend = true)
      (hvis : s.visible = .busy ∧ (t.visible = .done ∨ t.visible = .waitBnd) ∨
        s.visible = .waitBnd ∧ t.visible = .done) : IrqMove s t

/-- `IRQ_PEND` is clear, and no stop is entered. -/
def IrqCleared (s t : State) : Prop := t.csr.irqPend = false ∧ EntersNoStop s t

theorem OnlyFirmware.visible {s t : State} (h : OnlyFirmware s t) : t.visible = s.visible := by
  obtain ⟨-, hw, -⟩ := h
  rw [State.visible, hw, State.visible]

theorem OnlyFirmware.irqMove {s t : State} (h : OnlyFirmware s t) : IrqMove s t := by
  have hvis := h.visible
  obtain ⟨hcsr, -⟩ := h
  exact .keep (by rw [hcsr]) (.inl hvis)

theorem IrqMove.trans_onlyFirmware {s t u : State} (h : IrqMove s t) (hu : OnlyFirmware t u) : IrqMove s u := by
  have hvis := hu.visible
  obtain ⟨hcsr, -⟩ := hu
  cases h with
  | keep hi hv => exact .keep (by rw [hcsr, hi]) (by rwa [EntersNoStop, hvis])
  | raise hi hv => exact .raise (by rw [hcsr, hi]) (by rwa [hvis])

theorem IrqCleared.trans_onlyFirmware {s t u : State} (h : IrqCleared s t) (hu : OnlyFirmware t u) : IrqCleared s u := by
  have hvis := hu.visible
  obtain ⟨hcsr, -⟩ := hu
  rwa [IrqCleared, hcsr, EntersNoStop, hvis]

theorem engineStep_irqMove {s t : State} (h : engineStep s = .next t) : IrqMove s t := by
  obtain ⟨-, rfl⟩ | ⟨hb, -⟩ := engineStep_moves h
  · exact .keep rfl (.inl rfl)
  · have hs := visible_of_busy hb
    obtain hbusy | ⟨hstop, hirq⟩ := engineStep_busy_or_stopped hs h
    · exact .keep (by rw [engineStep_csr_of_busy h hbusy]) (.inr (.inr hbusy))
    · exact .raise hirq (.inl ⟨hs, hstop⟩)

/-- RESUME in WAIT_BND commits, or goes on in BUSY (43_boundary R226). -/
theorem resumeIfWaiting_irqMove (le ie : Bool) (s : State) : IrqMove s (resumeIfWaiting (s.writeCtrl le ie)) := by
  by_cases hst : s.w.state = .sWaitBnd
  · rw [resumeIfWaiting, if_pos (show (s.writeCtrl le ie).w.state = .sWaitBnd from hst)]
    have hwait : s.visible = .waitBnd := by rw [State.visible, hst]; rfl
    obtain ⟨-, h⟩ | ⟨-, h⟩ := resume_cases (s.writeCtrl le ie) <;> rw [h]
    · exact .raise rfl (.inr ⟨hwait, rfl⟩)
    · exact .keep rfl (.inr (.inr rfl))
  · rw [resumeIfWaiting, if_neg (show ¬ (s.writeCtrl le ie).w.state = .sWaitBnd from hst)]
    exact .keep rfl (.inl rfl)

/-- Of the commands IRQ_ACK alone clears `IRQ_PEND` (44_host_interface R255). -/
theorem exec_command_irqMove {i : Instr} {s t : State} (hi : i.isCommand = true) (hne : i ≠ .cmdIrqAck)
    (h : exec i s = .next t) : IrqMove s t := by
  cases i <;> cases h
  case cmdStart resumeBit le ie =>
    split_ifs
    · exact .keep rfl (.inr (.inr rfl))
    · exact resumeIfWaiting_irqMove le ie s
    · exact .keep rfl (.inl rfl)
  case cmdResume le ie => exact resumeIfWaiting_irqMove le ie s
  case cmdAbort => exact .keep rfl (.inr (.inl rfl))
  case wrCtrlCfg | wrBufBase | wrBufLen | wrBndTotal | rdCsr => exact .keep rfl (.inl rfl)
  case cmdIrqAck => exact absurd rfl hne
  all_goals cases hi

theorem csrPort_irq {a : CsrAccess} {s t : State} (h : csrPort a s = .next t) :
    IrqMove s t ∨ IrqCleared s t ∧ decode (.csr a) = .instr .cmdIrqAck [] := by
  unfold csrPort at h
  split at h
  next i rest hd =>
    by_cases hi : i = .cmdIrqAck
    · subst hi
      cases h
      exact .inr ⟨⟨rfl, .inl rfl⟩, by rw [hd, rest_of_decode_csr hd]⟩
    · exact .inl (exec_command_irqMove (isCommand_of_decode_csr hd) hi h)
  all_goals cases h
  all_goals exact .inl (.keep rfl (.inl rfl))

/-- The operations that clear `IRQ_PEND`: reset, and an access that decodes to IRQ_ACK (60_exceptions R292). -/
def ClearsIrq (p : Platform) (op : HostOp) : Prop :=
  op = .reset ∨ ∃ a, accessOf p op = some a ∧ decode (.csr a) = .instr .cmdIrqAck []

theorem hostStep_irq {op : HostOp} {s t : State} (h : hostStep op s = .next t) :
    IrqMove s t ∨ IrqCleared s t ∧ ClearsIrq s.platform op := by
  have heffect := hostStep_effect op s
  rw [h] at heffect
  generalize hx : (.next t : Out) = x at heffect
  cases heffect with
  | @access a f ha hf =>
    cases hu : csrPort a s with
    | next u =>
      rw [hu] at hx
      cases hx
      exact (csrPort_irq hu).imp (·.trans_onlyFirmware (hf u)) fun ⟨hclear, hack⟩ =>
        ⟨hclear.trans_onlyFirmware (hf u), .inr ⟨a, ha, hack⟩⟩
    | fault r => rw [hu] at hx; cases hx
    | refused r => rw [hu] at hx; cases hx
  | @store a b hop =>
    unfold bufferStore at hx
    split at hx <;> cases hx
    obtain ⟨hcsr, hw, -⟩ := hostStore_frame a b s
    exact .inl (.keep (by rw [hcsr]) (.inl (by rw [State.visible, hw, State.visible])))
  | reset hop => cases hx; exact .inr ⟨⟨rfl, .inr (.inl rfl)⟩, .inl hop⟩
  | engine hop => exact .inl (engineStep_irqMove hx.symm)
  | bookkeeping ha hne hf => cases hx; exact .inl hf.irqMove

theorem step_irq {s t : State} (h : step s = .next t) :
    IrqMove s t ∨ IrqCleared s t ∧ ∃ op ops, s.host = op :: ops ∧ ClearsIrq s.platform op := by
  cases hops : s.host with
  | nil => exact .inl (engineStep_irqMove (step_engine s hops ▸ h))
  | cons op ops =>
    rw [step_host s op ops hops] at h
    obtain hm | ⟨hclear, hop⟩ := hostStep_irq h
    · refine .inl ?_
      cases hm with
      | keep hirq hvis => exact .keep hirq hvis
      | raise hirq hvis => exact .raise hirq hvis
    · exact .inr ⟨hclear, op, ops, rfl, hop⟩

/-! ## The obligations -/

/-- Settles O39: the engine never stops, and a host operation stops exactly where its ending says. -/
theorem onlyTheTwoFaultsStop : Obligations.OnlyTheTwoFaultsStop := by
  intro s
  cases hops : s.host with
  | nil =>
    obtain ⟨t, ht⟩ := engineStep_total s
    simp [step_engine s hops, ht]
  | cons op ops =>
    have hending := hostStep_ending op { s with host := ops }
    rw [step_host s op ops hops, ← hops, races_next_iff hops, accessesUnsupported_next_iff hops]
    generalize hostStep op { s with host := ops } = x at hending ⊢
    cases hending with
    | next hrace haccess =>
      exact ⟨nofun, ⟨nofun, fun h => absurd h hrace⟩, ⟨nofun, fun h => absurd h haccess⟩⟩
    | race hrace haccess =>
      exact ⟨nofun, ⟨fun _ => hrace, fun _ => rfl⟩, ⟨nofun, fun h => absurd h haccess⟩⟩
    | unsupported hrace haccess =>
      exact ⟨nofun, ⟨nofun, fun h => absurd h hrace⟩, ⟨fun _ => haccess, fun _ => rfl⟩⟩

/-- Settles O51: a step moves `IRQ_PEND` with the visible state, or is one of the two that clear it. -/
theorem irqPendLifeCycle : Obligations.IrqPendLifeCycle := by
  intro s t h
  obtain (⟨hirq, hvis⟩ | ⟨hirq, hvis⟩) | ⟨⟨hirq, hvis⟩, hclear⟩ := step_irq h
  · exact ⟨fun hlow hhigh => (nomatch hhigh.symm.trans (hirq.trans hlow)), fun hne hstop => absurd hstop (hvis.not_stop hne),
      fun hhigh hlow => (nomatch hlow.symm.trans (hirq.trans hhigh))⟩
  · exact ⟨fun _ _ => hvis, fun _ _ => hirq, fun _ hlow => (nomatch hlow.symm.trans hirq)⟩
  · exact ⟨fun _ hhigh => (nomatch hhigh.symm.trans hirq), fun hne hstop => absurd hstop (hvis.not_stop hne),
      fun _ _ => hclear⟩

/-- Settles O27: STATUS by the number of its fields, and every other row of the read map by its registers. -/
theorem errorWritesStatusAlone : Obligations.ErrorWritesStatusAlone := by
  refine fun e s => ⟨?_, fun o ho => csrRead_raiseError e s ho, ⟨fun _ => rfl, rfl, rfl, rfl, rfl, rfl⟩, rfl⟩
  refine (toNat_statusRead_raiseError e s).trans ?_
  cases e <;> simp only [ErrKind.code] <;> omega

/-- Settles O37: TOC, FC and PAD take one byte at a fixed offset, and `S_VLEN` the bytes FLDEC asks for. -/
theorem missingByteEndsTheDecode : Obligations.MissingByteEndsTheDecode := by
  intro s hhost
  rw [step_engine s hhost]
  refine ⟨fun hst hlen => engineStep_of_pastEnd (fetch_sToc hst) hlen.le,
    fun hst hlen hb => engineStep_of_unread (fetch_sToc hst) hlen hb,
    fun hst hlen => engineStep_of_pastEnd (fetch_sFc hst) (Nat.le_of_lt_succ hlen),
    fun hst hlen hb => engineStep_of_unread (fetch_sFc hst) hlen hb,
    fun hst hlen => engineStep_of_pastEnd (fetch_sPad hst) hlen,
    fun hst hlen hb => engineStep_of_unread (fetch_sPad hst) hlen hb, fun hst hd => ?_, fun hst hd => ?_⟩
  · obtain ⟨-, h⟩ | ⟨hd', -⟩ | ⟨_, _, hd', -⟩ := engineStep_sVlen_cases hst
    · exact h
    all_goals cases hd.symm.trans hd'
  · obtain ⟨hd', -⟩ | ⟨-, h⟩ | ⟨_, _, hd', -⟩ := engineStep_sVlen_cases hst
    case inr.inl => exact h
    all_goals cases hd.symm.trans hd'

/-- Settles O38: outside BUSY the engine finds nothing to do. -/
theorem quietStatesStay : Obligations.QuietStatesStay := by
  intro s hhost hquiet
  have hbusy : s.busy = false := by
    obtain h | h | h := hquiet <;> rw [State.busy, h] <;> rfl
  rw [step_engine s hhost, engineStep, fetch_of_not_busy hbusy]

end Sys2Proof.Machine

namespace Sys2Proof.Machine

/-! ## What reset leaves (70_reset_and_hazards R310) -/

/-- A file of zeros reads 0 at every index, past its end too. -/
theorem FrameFile.at_replicate_zero (k : Nat) : FrameFile.at (Vector.replicate 48 0#11) k = 0#11 := by
  rw [FrameFile.at, Vector.getElem?_replicate]
  split <;> rfl

/-- Every row of the read map is 0 at reset, and so is every offset without a row (10_state R23, R61). -/
theorem csrRead_reset (o : Nat) : State.reset.csrRead o = 0#32 := by
  have hctrl : State.reset.ctrlRead = 0#32 := rfl
  have hstatus : State.reset.statusRead = 0#32 := rfl
  have hhdr : Hdr.zero.word = 0#32 := rfl
  have hpkt : Pkt.zero.word = 0#32 := rfl
  rw [State.csrRead, hctrl, hstatus]
  simp only [State.reset, Csr.reset, hhdr, hpkt, FrameFile.at_replicate_zero, BitVec.setWidth_zero, ite_self]

/-- A step that takes a reset off the list resets the block. -/
theorem step_reset {s : State} {ops : List HostOp} (h : s.host = .reset :: ops) :
    step s = .next (resetBlock { s with host := ops }) :=
  step_host s .reset ops h

/-- Settles O44: the block after reset shows the CSRs and the visible state of the reset state, whose every read is 0. -/
theorem resetClearsTheBlock : Obligations.ResetClearsTheBlock := by
  intro s ops h
  have hread (o : Nat) : (resetBlock { s with host := ops }).csrRead o = 0#32 :=
    (csrRead_congr (s := State.reset) rfl rfl o).trans (csrRead_reset o)
  exact ⟨_, step_reset h, hread, rfl, rfl, rfl, fun _ => rfl, rfl, rfl, rfl⟩

end Sys2Proof.Machine
